-- ==== Sys2Proof/Word.lean ====
section
/-! DEFINITION. The plain words of the block: bytes, frames, event words, and the two records' small parts that
travel on its ports (00_scope.md R5, R7; 30_encoding.md R59, R61). -/

namespace Sys2Proof

/-- A wire unit: 8 bits, bit 7 the most significant (00_scope.md R5, R7). -/
abbrev Byte := BitVec 8

/-- The byte list of one message on the wire, first byte first (20_memory.md R35). -/
abbrev Frame := List Byte

/-- The input event word: code in bits 11:8, data in bits 7:0 (30_encoding.md R59). -/
abbrev EventWord := BitVec 12

/-- The dropped-byte counter's word (10_state.md R19). -/
abbrev DropCount := BitVec 32

/-- The message record TX_REQ carries on the message port (30_encoding.md R61). -/
structure Message where
  op : Byte
  declLen : Byte
  payload : List Byte
  deriving DecidableEq, Repr

/-- Why an attempt failed: the echo differed, or none came (43_echo_collision.md R92). -/
inductive FailKind where
  | collision
  | timeout
  deriving DecidableEq, Repr

end Sys2Proof
end

