-- ==== Sys2Proof/Config.lean ====
section
/-! DEFINITION. The configuration record and the one model parameter the spec leaves open (00_scope.md R3, R4). -/

namespace Sys2Proof

/-- The configuration record OPEN carries (00_scope.md R3; 30_encoding.md R62). The transport settings are opaque
labels, the durations are numbers in no stated unit, and `backoff` lists `cfg.backoff(1)`, `cfg.backoff(2)`, …
(DESIGN CHOICE, log entry 9: the spec gives these fields no encoding). -/
structure Config where
  baud : Nat
  parity : Nat
  flow : Nat
  maxAttempts : Byte
  backoff : List Nat
  echoTimeout : Nat
  deriving DecidableEq, Repr

/-- What the implementation accepts of a configuration record, beyond the two conditions of 00_scope.md R4: the open
part of the model parameter `configValid`. Nothing is known of it (log entry 8). -/
opaque Config.accepted : Config → Bool

end Sys2Proof
end

