-- ==== Sys2Proof/Machine/Operands.lean ====
section
/-! DEFINITION. The operand forms: checksums, length classes, expected lengths, message records, frames and the
validity of a configuration, as functions of their bytes (30_encoding.md, 40_checksum.md, 41_encoder.md). -/

namespace Sys2Proof.Machine

/-- `XOR(l)` of 00_scope.md R8; the empty list gives 0x00. -/
def xorBytes : List Byte → Byte
  | [] => 0
  | b :: l => b ^^^ xorBytes l

/-- `NOT8(b)` of 00_scope.md R8. -/
def not8 (b : Byte) : Byte := 0xFF ^^^ b

/-- CKS_GEN of 40_checksum.md R68. -/
def checksumOf (pre : List Byte) : Byte := not8 (xorBytes pre)

/-- CKS_CHK of 40_checksum.md R69. -/
def checksumOk (f : Frame) : Bool := xorBytes f == 0xFF

/-- Bit 7 of a byte: set, the byte can start a frame (20_memory.md R38, R42). -/
def isOpcode (b : Byte) : Bool := b.getLsbD 7

/-- The four framing shapes (30_encoding.md R50). -/
inductive LengthClass where
  | c2
  | c4
  | c6
  | var
  deriving DecidableEq, Repr

/-- The length class from bits 6:5 of an opcode (30_encoding.md R50, the spec's decision D1; log entry 12). -/
def lengthClass (op : Byte) : LengthClass :=
  match op.getLsbD 6, op.getLsbD 5 with
  | false, false => .c2
  | false, true => .c4
  | true, false => .c6
  | true, true => .var

/-- A length byte the variable class allows: 3 to 127 (30_encoding.md R54). -/
def legalLen (len : Byte) : Bool := decide (3 ≤ len.toNat) && decide (len.toNat ≤ 127)

/-- What the head of a byte list says of its frame's length (30_encoding.md R55). -/
inductive ExpLen where
  | needMore
  | badLen
  | len (n : Nat)
  deriving DecidableEq, Repr

/-- `expLen(l)` of 30_encoding.md R55; an empty list says nothing yet. -/
def expLen : List Byte → ExpLen
  | [] => .needMore
  | op :: rest =>
    match lengthClass op with
    | .c2 => .len 2
    | .c4 => .len 4
    | .c6 => .len 6
    | .var =>
      match rest with
      | [] => .needMore
      | len :: _ => if legalLen len then .len len.toNat else .badLen

/-- A whole valid frame: opcode first, the length its head gives, and the checksum right (30_encoding.md R51, R55). -/
def isFrame (f : Frame) : Bool :=
  isOpcode (f.headD 0) && (expLen f == .len f.length) && checksumOk f

/-- An event word without a meaning: code 0x0 or 0x9-0xF, or code 0x2-0x8 with nonzero data (30_encoding.md R64). -/
def reservedWord (w : EventWord) : Bool :=
  let code := w.toNat / 256
  decide (code = 0) || decide (9 ≤ code) || (decide (2 ≤ code) && decide (w.toNat % 256 ≠ 0))

/-- Why MSG_BUILD rejects a record (41_encoder.md R72). -/
inductive MsgError where
  | invalidOpcode
  | invalidLength
  deriving DecidableEq, Repr

/-- How many payload bytes the record's class needs; none when the declared length is out of range
(41_encoder.md R72). -/
def payloadNeed (m : Message) : Option Nat :=
  match lengthClass m.op with
  | .c2 => some 0
  | .c4 => some 2
  | .c6 => some 4
  | .var => if legalLen m.declLen then some (m.declLen.toNat - 3) else none

/-- MSG_BUILD of 41_encoder.md R72: `none` is `Ok`; the opcode test comes first (60_exceptions.md R112). -/
def messageError (m : Message) : Option MsgError :=
  if isOpcode m.op then
    if payloadNeed m = some m.payload.length then none else some .invalidLength
  else some .invalidOpcode

/-- The bytes of a message before its checksum (41_encoder.md R73). -/
def messageBytes (m : Message) : List Byte :=
  m.op :: ((if lengthClass m.op = .var then [m.declLen] else []) ++ m.payload)

/-- ENCODE of 41_encoder.md R73. -/
def frameOfMessage (m : Message) : Frame := messageBytes m ++ [checksumOf (messageBytes m)]

/-- FRAME_MSG of 41_encoder.md R74. -/
def messageOfFrame (f : Frame) : Message :=
  let op := f.headD 0
  if lengthClass op = .var then
    { op := op, declLen := (f.drop 1).headD 0, payload := (f.drop 2).take (f.length - 3) }
  else
    { op := op, declLen := BitVec.ofNat 8 f.length, payload := (f.drop 1).take (f.length - 2) }

/-- Message equality of 41_encoder.md R75: opcode and payload, byte for byte. -/
def messageEq (m m' : Message) : Bool := m.op == m'.op && m.payload == m'.payload

/-- A schedule whose delays strictly increase (00_scope.md R3). -/
def strictlyIncreasing : List Nat → Bool
  | [] => true
  | a :: rest =>
    (match rest with
      | [] => true
      | b :: _ => decide (a < b)) && strictlyIncreasing rest

/-- The schedule has one delay for each k = 1..maxAttempts-1 (00_scope.md R3; log entry 9). -/
def scheduleFits (c : Config) : Bool := c.backoff.length == c.maxAttempts.toNat - 1

/-- `cfg.backoff(k)`, for k = 1..maxAttempts-1 (00_scope.md R3). -/
def backoffDelay (c : Config) (k : Nat) : Option Nat := if k = 0 then none else c.backoff[k - 1]?

/-- What every valid configuration meets: 1 ≤ maxAttempts ≤ 255 (the upper bound is the field's width) and a strictly
increasing schedule (00_scope.md R4), and, as 00_scope.md R3 gives the record's fields, a delay for each k and an echo
timeout greater than 0 (log entry 9). -/
def configRequired (c : Config) : Bool :=
  decide (1 ≤ c.maxAttempts.toNat) && scheduleFits c && strictlyIncreasing c.backoff && decide (0 < c.echoTimeout)

/-- `configValid(cfg)` of 00_scope.md R4: the required conditions and the open parameter (log entry 8). -/
def configValid (c : Config) : Bool := configRequired c && c.accepted

end Sys2Proof.Machine
end

