-- ==== Sys2Proof/Syntax.lean ====
section
/-! DEFINITION. The instructions: one constructor per row of spec/opcode_table.json. -/

namespace Sys2Proof

/-- One constructor per row of the opcode table, in the table's order: the five wire rows, the nine event rows, the
fourteen internal operations (which have no encoding and are run by the event rows' rules). -/
inductive Instr where
  /-- FRAME_C2: a two-byte wire frame candidate (30_encoding.md R52). -/
  | frameC2 (op cks : Byte)
  /-- FRAME_C4: a four-byte wire frame candidate (30_encoding.md R53). -/
  | frameC4 (op p0 p1 cks : Byte)
  /-- FRAME_C6: a six-byte wire frame candidate (30_encoding.md R53). -/
  | frameC6 (op p0 p1 p2 p3 cks : Byte)
  /-- FRAME_VAR: opcode, length byte, then payload and checksum together in `body`; `body` is empty when the length
  byte is out of range (30_encoding.md R54, R55; log entry 7). -/
  | frameVar (op len : Byte) (body : List Byte)
  /-- DATA_BYTE: a wire byte with bit 7 clear (42_decoder.md R79). -/
  | dataByte (b : Byte)
  /-- RX_BYTE, event word 0x1bb (42_decoder.md R77). -/
  | rxByte (b : Byte)
  /-- TX_REQ, event word 0x200 with the message port (43_echo_collision.md R89). -/
  | txReq (m : Message)
  /-- TX_CANCEL, event word 0x300 (43_echo_collision.md R96). -/
  | txCancel
  /-- ECHO_TIMEOUT, event word 0x400 (43_echo_collision.md R93). -/
  | echoTimeout
  /-- BACKOFF_DONE, event word 0x500 (43_echo_collision.md R94). -/
  | backoffDone
  /-- OPEN, event word 0x600 with the configuration port (44_control.md R101). -/
  | openBlock (c : Config)
  /-- CLOSE, event word 0x700 (44_control.md R102). -/
  | closeBlock
  /-- TRANSPORT_ERR, event word 0x800 (44_control.md R103). -/
  | transportErr
  /-- RESERVED_EVENT: every other event word (30_encoding.md R64). -/
  | reservedEvent (word : EventWord)
  /-- CKS_GEN (40_checksum.md R68). -/
  | cksGen (pre : List Byte)
  /-- CKS_CHK (40_checksum.md R69). -/
  | cksChk (f : Frame)
  /-- MSG_BUILD (41_encoder.md R72). -/
  | msgBuild (m : Message)
  /-- ENCODE (41_encoder.md R73). -/
  | encodeMsg (m : Message)
  /-- FRAME_MSG (41_encoder.md R74). -/
  | frameMsg (f : Frame)
  /-- DECODE (42_decoder.md R78). -/
  | decodeLoop
  /-- D_NOISE (42_decoder.md R79). -/
  | dNoise
  /-- D_WAIT (42_decoder.md R80). -/
  | dWait
  /-- D_ACCEPT with the expected length (42_decoder.md R81). -/
  | dAccept (n : Nat)
  /-- D_RESYNC (42_decoder.md R82). -/
  | dResync
  /-- D_BADLEN (42_decoder.md R83). -/
  | dBadLen
  /-- TX_ISSUE (43_echo_collision.md R90). -/
  | txIssue
  /-- DISPATCH of one decoded frame (43_echo_collision.md R91). -/
  | dispatch (f : Frame)
  /-- FAIL_ATTEMPT (43_echo_collision.md R92). -/
  | failAttempt (kind : FailKind)
  deriving DecidableEq, Repr

end Sys2Proof
end

