-- ==== Sys2Proof/WellFormed.lean ====
section
/-! DEFINITION. Well-formed instructions: the operand conditions the spec puts on each row. -/

namespace Sys2Proof

open Sys2Proof.Machine

/-- An opcode byte of the given class (30_encoding.md R50, R52-R54). -/
def opcodeOf (k : LengthClass) (op : Byte) : Bool := isOpcode op && (lengthClass op == k)

/-- The operand conditions of each row. A wire row is well-formed as a candidate, whatever its checksum: the decoder
settles that (42_decoder.md R81-R83). -/
def Instr.wf : Instr → Bool
  | .frameC2 op _ => opcodeOf .c2 op
  | .frameC4 op _ _ _ => opcodeOf .c4 op
  | .frameC6 op _ _ _ _ _ => opcodeOf .c6 op
  | .frameVar op len body =>
    opcodeOf .var op && decide (body.length = if legalLen len then len.toNat - 2 else 0)
  | .dataByte b => !isOpcode b
  | .rxByte _ => true
  | .txReq m => decide (m.payload.length ≤ 124)
  | .txCancel => true
  | .echoTimeout => true
  | .backoffDone => true
  | .openBlock c => scheduleFits c && decide (0 < c.echoTimeout)
  | .closeBlock => true
  | .transportErr => true
  | .reservedEvent w => reservedWord w
  | .cksGen pre => decide (1 ≤ pre.length) && decide (pre.length ≤ 126)
  | .cksChk f => decide (2 ≤ f.length) && decide (f.length ≤ 127)
  | .msgBuild _ => true
  | .encodeMsg m => messageError m == none
  | .frameMsg f => isFrame f
  | .decodeLoop => true
  | .dNoise => true
  | .dWait => true
  | .dAccept n => decide (2 ≤ n) && decide (n ≤ 127)
  | .dResync => true
  | .dBadLen => true
  | .txIssue => true
  | .dispatch f => isFrame f
  | .failAttempt _ => true

end Sys2Proof
end

