-- ==== Sys2Proof/Decode.lean ====
section
/-! DEFINITION. Decoding input events to instructions, and encoding them back (30_encoding.md). Decoding is total: a
reserved word decodes to the table's RESERVED_EVENT row, which exec refuses by name. -/

namespace Sys2Proof

open Sys2Proof.Machine

/-- One input of the environment. `event` is an event word with what stands on the two side ports (30_encoding.md
R59, R61, R62; the ports are read only by TX_REQ and OPEN, log entry 11). `wire` is a run of one or more coming bytes
on the bus, the `RXS` form of 30_encoding.md R67: each byte is an event and a step of its own (log entry 6). -/
inductive Input where
  | event (word : EventWord) (message : Message) (config : Config)
  | wire (first : Byte) (rest : List Byte)
  deriving DecidableEq, Repr

/-- A message port with nothing on it. -/
def emptyMessage : Message := { op := 0, declLen := 0, payload := [] }

/-- A configuration port with nothing on it. -/
def emptyConfig : Config :=
  { baud := 0, parity := 0, flow := 0, maxAttempts := 0, backoff := [], echoTimeout := 0 }

/-- The burst of a byte list, if it has a byte. -/
def burst : List Byte → List Input
  | [] => []
  | b :: rest => [.wire b rest]

/-- An event word with the given code and data (30_encoding.md R59). -/
def eventWord (code data : Nat) : EventWord := BitVec.ofNat 12 (code * 256 + data)

/-- The instruction of an event word with its side ports (30_encoding.md R60, R64). -/
def decodeEvent (w : EventWord) (m : Message) (c : Config) : Instr :=
  let code := w.toNat / 256
  let data := w.toNat % 256
  if code = 1 then .rxByte (BitVec.ofNat 8 data)
  else if data ≠ 0 then .reservedEvent w
  else
    match code with
    | 2 => .txReq m
    | 3 => .txCancel
    | 4 => .echoTimeout
    | 5 => .backoffDone
    | 6 => .openBlock c
    | 7 => .closeBlock
    | 8 => .transportErr
    | _ => .reservedEvent w

/-- The first wire unit of a burst and what is left of the burst: a data byte, or a candidate of the opcode's class
with all its bytes (30_encoding.md R50-R55). A variable-class opcode with a bad length byte is the two bytes
themselves; an opcode whose candidate the burst does not complete is that one byte, received as RX_BYTE (log entry 7). -/
def decodeWire (first : Byte) (rest : List Byte) : Instr × List Input :=
  if isOpcode first then
    match lengthClass first, rest with
    | .c2, cks :: left => (.frameC2 first cks, burst left)
    | .c4, p0 :: p1 :: cks :: left => (.frameC4 first p0 p1 cks, burst left)
    | .c6, p0 :: p1 :: p2 :: p3 :: cks :: left => (.frameC6 first p0 p1 p2 p3 cks, burst left)
    | .var, len :: left =>
      if legalLen len then
        if len.toNat - 2 ≤ left.length then
          (.frameVar first len (left.take (len.toNat - 2)), burst (left.drop (len.toNat - 2)))
        else (.rxByte first, burst rest)
      else (.frameVar first len [], burst left)
    | _, _ => (.rxByte first, burst rest)
  else (.dataByte first, burst rest)

/-- The instruction an input starts with, and the inputs left of it. -/
def decodeInput : Input → Instr × List Input
  | .event w m c => (decodeEvent w m c, [])
  | .wire first rest => decodeWire first rest

/-- The event word alone, with nothing on the side ports. -/
def plainEvent (code data : Nat) : Input := .event (eventWord code data) emptyMessage emptyConfig

/-- The words of an instruction; `none` for an internal operation, which has no encoding (opcode_table.json). -/
def encode : Instr → Option Input
  | .frameC2 op cks => some (.wire op [cks])
  | .frameC4 op p0 p1 cks => some (.wire op [p0, p1, cks])
  | .frameC6 op p0 p1 p2 p3 cks => some (.wire op [p0, p1, p2, p3, cks])
  | .frameVar op len body => some (.wire op (len :: body))
  | .dataByte b => some (.wire b [])
  | .rxByte b => some (plainEvent 1 b.toNat)
  | .txReq m => some (.event (eventWord 2 0) m emptyConfig)
  | .txCancel => some (plainEvent 3 0)
  | .echoTimeout => some (plainEvent 4 0)
  | .backoffDone => some (plainEvent 5 0)
  | .openBlock c => some (.event (eventWord 6 0) emptyMessage c)
  | .closeBlock => some (plainEvent 7 0)
  | .transportErr => some (plainEvent 8 0)
  | .reservedEvent w => some (.event w emptyMessage emptyConfig)
  | .cksGen _ => none
  | .cksChk _ => none
  | .msgBuild _ => none
  | .encodeMsg _ => none
  | .frameMsg _ => none
  | .decodeLoop => none
  | .dNoise => none
  | .dWait => none
  | .dAccept _ => none
  | .dResync => none
  | .dBadLen => none
  | .txIssue => none
  | .dispatch _ => none
  | .failAttempt _ => none

/-- Whether a row of the opcode table is an internal operation, run only by the event rows' rules. -/
def Instr.isInternal : Instr → Bool
  | .frameC2 _ _ => false
  | .frameC4 _ _ _ _ => false
  | .frameC6 _ _ _ _ _ _ => false
  | .frameVar _ _ _ => false
  | .dataByte _ => false
  | .rxByte _ => false
  | .txReq _ => false
  | .txCancel => false
  | .echoTimeout => false
  | .backoffDone => false
  | .openBlock _ => false
  | .closeBlock => false
  | .transportErr => false
  | .reservedEvent _ => false
  | .cksGen _ => true
  | .cksChk _ => true
  | .msgBuild _ => true
  | .encodeMsg _ => true
  | .frameMsg _ => true
  | .decodeLoop => true
  | .dNoise => true
  | .dWait => true
  | .dAccept _ => true
  | .dResync => true
  | .dBadLen => true
  | .txIssue => true
  | .dispatch _ => true
  | .failAttempt _ => true

/-- The four agents that give the block its events (00_scope.md R13). -/
inductive Agent where
  | bus
  | host
  | echoTimer
  | backoffTimer
  deriving DecidableEq, Repr

/-- Which agent gives an event (30_encoding.md R60); none for a reserved word and for an internal operation. -/
def Instr.agent : Instr → Option Agent
  | .frameC2 _ _ => some .bus
  | .frameC4 _ _ _ _ => some .bus
  | .frameC6 _ _ _ _ _ _ => some .bus
  | .frameVar _ _ _ => some .bus
  | .dataByte _ => some .bus
  | .rxByte _ => some .bus
  | .txReq _ => some .host
  | .txCancel => some .host
  | .echoTimeout => some .echoTimer
  | .backoffDone => some .backoffTimer
  | .openBlock _ => some .host
  | .closeBlock => some .host
  | .transportErr => some .bus
  | .reservedEvent _ => none
  | .cksGen _ => none
  | .cksChk _ => none
  | .msgBuild _ => none
  | .encodeMsg _ => none
  | .frameMsg _ => none
  | .decodeLoop => none
  | .dNoise => none
  | .dWait => none
  | .dAccept _ => none
  | .dResync => none
  | .dBadLen => none
  | .txIssue => none
  | .dispatch _ => none
  | .failAttempt _ => none

/-- How many bytes the wire unit has that starts at the head of a nonempty byte list (30_encoding.md R55, R57). -/
def wireUnitLength (l : List Byte) : Nat :=
  if isOpcode (l.headD 0) then
    match expLen l with
    | .needMore => 1
    | .badLen => 2
    | .len n => n
  else 1

/-- The input that lays out a word of the opcode table: 8 bits are a wire byte followed by zero bytes up to the end of
its wire unit, 9 to 16 bits are a 12-bit event word with empty side ports (log entry 15). -/
def tableInput (nbits w : Nat) : Option Input :=
  if nbits = 8 then
    if w < 256 then
      let first : Byte := BitVec.ofNat 8 w
      some (.wire first (List.replicate (wireUnitLength (first :: List.replicate 126 0) - 1) 0))
    else none
  else if 8 < nbits ∧ nbits ≤ 16 then
    if w < 4096 then some (.event (BitVec.ofNat 12 w) emptyMessage emptyConfig) else none
  else none

/-- The instruction the decoder reads from a word of the opcode table. -/
def decodeTableWord (nbits w : Nat) : Option Instr :=
  (tableInput nbits w).map fun inp => (decodeInput inp).1

/-- The RX_BYTE events that bring these bytes, in order: the expansion of `RXS` (30_encoding.md R67). -/
def rxWords (bytes : List Byte) : List Input := bytes.map fun b => plainEvent 1 b.toNat

/-- The program forms of 30_encoding.md R66 and R67: a line of a program. -/
inductive EventLine where
  | rx (b : Byte)
  | send (m : Message)
  | cancel
  | timeout
  | backoff
  | openWith (c : Config)
  | close
  | terr
  | rxs (bytes : List Byte)
  | echo
  deriving DecidableEq, Repr

/-- The inputs a line stands for; `pending` is the frame the comparator holds when the line is written, which `ECHO`
returns byte by byte (30_encoding.md R66, R67). With no pending frame `ECHO` is no event at all (DESIGN CHOICE, log
entry 18: R67 speaks of the bytes of `pending` only). -/
def EventLine.inputs (pending : Option Frame) : EventLine → List Input
  | .rx b => [plainEvent 1 b.toNat]
  | .send m => [.event (eventWord 2 0) m emptyConfig]
  | .cancel => [plainEvent 3 0]
  | .timeout => [plainEvent 4 0]
  | .backoff => [plainEvent 5 0]
  | .openWith c => [.event (eventWord 6 0) emptyMessage c]
  | .close => [plainEvent 7 0]
  | .terr => [plainEvent 8 0]
  | .rxs bytes => rxWords bytes
  | .echo => rxWords (pending.getD [])

/-- One hexadecimal digit, 0-9 and A-F. -/
def hexDigit (n : Nat) : Char := if n < 10 then Char.ofNat (48 + n) else Char.ofNat (55 + n)

/-- A byte in bare hexadecimal, two digits (00_scope.md R7). -/
def byteText (b : Byte) : String := String.ofList [hexDigit (b.toNat / 16), hexDigit (b.toNat % 16)]

/-- Bytes in bare hexadecimal, separated by spaces. -/
def bytesText (l : List Byte) : String := " ".intercalate (l.map byteText)

/-- A frame as its bytes between braces, characters 123 and 125 (30_encoding.md R65). -/
def frameText (f : Frame) : String :=
  String.singleton (Char.ofNat 123) ++ bytesText f ++ String.singleton (Char.ofNat 125)

/-- A message as `MSG(op)`, `MSG(op; p0 …)` or, in the variable class, `MSG(op, L; p0 …)` (30_encoding.md R65). -/
def messageText (m : Message) : String :=
  "MSG(0x" ++ byteText m.op ++
    (match lengthClass m.op with
      | .c2 => ""
      | .c4 => "; " ++ bytesText m.payload
      | .c6 => "; " ++ bytesText m.payload
      | .var => ", " ++ byteText m.declLen ++ "; " ++ bytesText m.payload) ++ ")"

/-- A line as 30_encoding.md R66 and R67 write it; `name` is what the program calls a configuration. -/
def EventLine.text (name : Config → String) : EventLine → String
  | .rx b => "RX " ++ byteText b
  | .send m => "SEND " ++ messageText m
  | .cancel => "CANCEL"
  | .timeout => "TIMEOUT"
  | .backoff => "BACKOFF"
  | .openWith c => "OPEN " ++ name c
  | .close => "CLOSE"
  | .terr => "TERR"
  | .rxs bytes => "RXS " ++ bytesText bytes
  | .echo => "ECHO"

end Sys2Proof
end

