-- ==== Sys2Proof/Machine/State.lean ====
section
/-! DEFINITION. The state of the block (10_state.md R15, R31, R32), its outputs and the reasons a step can stop. -/

namespace Sys2Proof.Machine

/-- Open or closed (10_state.md R16). -/
inductive Ctrl where
  | closed
  | opened
  deriving DecidableEq, Repr

/-- The transmit sequencer's state (10_state.md R21). -/
inductive TxPhase where
  | idle
  | waitEcho
  | backoff
  deriving DecidableEq, Repr

/-- The status codes of 60_exceptions.md R106 by name. -/
inductive Status where
  | ok
  | invalidOpcode
  | invalidLength
  | checksumMismatch
  | transmitCollision
  | transmitTimeout
  | transportError
  | closed
  | cancelled
  | configError
  deriving DecidableEq, Repr

/-- The output events of 30_encoding.md R63. -/
inductive Output where
  | wireTx (f : Frame)
  | frameOut (f : Frame)
  | txDone (st : Status)
  | openDone (st : Status)
  | streamEnd
  deriving DecidableEq, Repr

/-- The value an internal operation returned when it was run on its own (the model's own, log entry 4). -/
inductive OpResult where
  | none
  | byte (b : Byte)
  | check (valid : Bool)
  | built (err : Option MsgError)
  | frame (f : Frame)
  | message (m : Message)
  | frames (fs : List Frame)
  deriving DecidableEq, Repr

/-- The state record: the nine elements of 10_state.md R15, the output trace of R31, and two fields of the model's own
(`inputs`, log entry 1, and `result`, log entry 4). -/
structure State where
  ctrl : Ctrl
  cfg : Option Config
  /-- Received bytes not yet consumed, oldest first (R17). -/
  rxBuf : List Byte
  /-- Bytes the decoder discarded, modulo 2^32 (R19). -/
  dropCount : DropCount
  txPhase : TxPhase
  /-- The frame on the wire whose echo is awaited (R22). -/
  pending : Option Frame
  /-- The frame of the send in progress (R23). -/
  curFrame : Option Frame
  /-- The number of the current or most recent attempt (R24). -/
  attempt : Byte
  /-- Why the most recent attempt failed; `none` is the spec's NONE (R25). -/
  lastFail : Option FailKind
  /-- The output events, oldest first (R31). -/
  trace : List Output
  /-- The environment's coming events, in its order: the model's own field (log entry 1). -/
  inputs : List Input
  /-- What the last internal operation run on its own returned: the model's own field (log entry 4). -/
  result : OpResult
  deriving DecidableEq, Repr

/-- The reasons a step stops with a fault. The block has no fault state (60_exceptions.md R119); each of these is
raised only in a state that breaks 10_state.md R26, which no run from reset reaches, so each is safe (log entry 10). -/
inductive Fault where
  /-- RX_BYTE (and the wire rows) with 127 bytes already buffered: the append would overflow (10_state.md R17). Safe. -/
  | rxOverflow
  /-- TX_ISSUE (and BACKOFF_DONE) with no current frame to write (10_state.md R23). Safe. -/
  | noFrame
  /-- FAIL_ATTEMPT (and ECHO_TIMEOUT, DISPATCH, RX_BYTE) with no configuration to read maxAttempts from. Safe. -/
  | noConfig
  deriving DecidableEq, Repr

/-- The reasons a step is refused. -/
inductive Refusal where
  /-- An instruction that has no meaning in the model yet, by its mnemonic; no arm uses it. Safe. -/
  | notModelled (mnemonic : String)
  /-- RESERVED_EVENT: a reserved event word (30_encoding.md R64). Safe: the spec asks for the refusal. -/
  | reservedWord
  /-- OPEN while the block is open (44_control.md R104). Safe: the spec asks for the refusal. -/
  | openWhileOpen
  /-- A decoder micro-operation (D_NOISE, D_WAIT, D_ACCEPT, D_RESYNC, D_BADLEN) run on its own in a state outside its
  rule's Operands line (log entry 5). Safe: no step of the machine runs one there. -/
  | operandsNotMet
  deriving DecidableEq, Repr

/-- The machine at power-on (10_state.md R32, 70_reset_and_hazards.md R120); `inputs` and `result` are the model's own
(log entries 1 and 4, DESIGN CHOICE). -/
def State.reset : State :=
  { ctrl := .closed
    cfg := none
    rxBuf := []
    dropCount := 0
    txPhase := .idle
    pending := none
    curFrame := none
    attempt := 0
    lastFail := none
    trace := []
    inputs := []
    result := .none }

/-- What a step or an operation of this machine answers. -/
abbrev Result := Host.Outcome State Fault Refusal

end Sys2Proof.Machine
end

