-- ==== Sys2Proof/Machine/Flags.lean ====
section
/-! DEFINITION. What the block shows without a register of its own: the three flags and the status port, the decoder
phase, the numeric status codes and the running timer, all functions of the state. -/

namespace Sys2Proof.Machine

/-- `busy` of 10_state.md R27. -/
def State.busy (s : State) : Bool := s.txPhase != .idle

/-- `echoArmed` of 10_state.md R27. -/
def State.echoArmed (s : State) : Bool := s.pending.isSome

/-- `open` of 10_state.md R27. -/
def State.isOpen (s : State) : Bool := s.ctrl == .opened

/-- The status port of 30_encoding.md R63. -/
structure StatusPort where
  isOpen : Bool
  busy : Bool
  echoArmed : Bool
  dropCount : DropCount
  deriving DecidableEq, Repr

/-- What a host reads on the status port, at any time and without side effect (20_memory.md R41). -/
def State.statusPort (s : State) : StatusPort :=
  { isOpen := s.isOpen, busy := s.busy, echoArmed := s.echoArmed, dropCount := s.dropCount }

/-- The decoder's phase (10_state.md R18). -/
inductive DecPhase where
  | scan
  | waitLen
  | waitBody
  deriving DecidableEq, Repr

/-- `decPhase(rxBuf)` of 10_state.md R18. -/
def decPhase : List Byte → DecPhase
  | [] => .scan
  | [op] => if lengthClass op = .var then .waitLen else .waitBody
  | _ :: _ :: _ => .waitBody

/-- The 4-bit status codes of 60_exceptions.md R106. -/
def Status.code : Status → BitVec 4
  | .ok => 0x0
  | .invalidOpcode => 0x1
  | .invalidLength => 0x2
  | .checksumMismatch => 0x3
  | .transmitCollision => 0x4
  | .transmitTimeout => 0x5
  | .transportError => 0x6
  | .closed => 0x7
  | .cancelled => 0x8
  | .configError => 0x9

/-- The status a MSG_BUILD error reports (60_exceptions.md R106). -/
def MsgError.status : MsgError → Status
  | .invalidOpcode => .invalidOpcode
  | .invalidLength => .invalidLength

/-- The status of a send whose last attempt failed this way (43_echo_collision.md R92). -/
def finalStatus : FailKind → Status
  | .collision => .transmitCollision
  | .timeout => .transmitTimeout

/-- The two timers (60_exceptions.md R115), each with its length. -/
inductive Timer where
  | echo (length : Nat)
  | backoff (length : Nat)
  deriving DecidableEq, Repr

/-- The timer that runs in a state, and for how long: the echo timer in WAIT_ECHO, the backoff timer in BACKOFF
(60_exceptions.md R115). No step reads the length (70_reset_and_hazards.md R131). -/
def State.timer (s : State) : Option Timer :=
  match s.txPhase, s.cfg with
  | .waitEcho, some c => some (.echo c.echoTimeout)
  | .backoff, some c => (backoffDelay c s.attempt.toNat).map .backoff
  | _, _ => none

end Sys2Proof.Machine
end

