-- ==== Sys2Proof/Machine/Ops.lean ====
section
/-! DEFINITION. The shared operations: output and report, the decoder's micro-steps and loop, the transmit
sequencer's and comparator's parts, and the ends of a session. -/

namespace Sys2Proof.Machine

/-- Run `k` on the next state of `o`; a fault or a refusal stays. -/
def andThen (o : Result) (k : State → Result) : Result :=
  match o with
  | .next t => k t
  | .fault f => .fault f
  | .refused r => .refused r

/-! ### Outputs -/

/-- `emit E` of 00_scope.md R11: append to the trace. -/
def State.emit (s : State) (e : Output) : State := { s with trace := s.trace ++ [e] }

/-- `report(st)` of 00_scope.md R11 and 60_exceptions.md R108, the block's counterpart of taking an exception: one
TX_DONE in the step that decides it; nothing is saved and there is nothing to return from (R109). -/
def State.report (s : State) (st : Status) : State := s.emit (.txDone st)

/-- The value an internal operation returns when it is run on its own (log entry 4). -/
def State.returning (s : State) (r : OpResult) : State := { s with result := r }

/-! ### The decoder (42_decoder.md) -/

/-- The part of the state the decoder owns, and the list DECODE has put out so far. -/
structure Decoder where
  rxBuf : List Byte
  dropCount : DropCount
  out : List Frame
  deriving DecidableEq, Repr

/-- The five micro-steps of 42_decoder.md R78. -/
inductive MicroStep where
  | wait
  | noise
  | badLen
  | accept (n : Nat)
  | resync
  deriving DecidableEq, Repr

/-- Which micro-step the buffer calls for: one pass of the loop of 42_decoder.md R78. -/
def microStep (buf : List Byte) : MicroStep :=
  match buf with
  | [] => .wait
  | op :: _ =>
    if isOpcode op then
      match expLen buf with
      | .needMore => .wait
      | .badLen => .badLen
      | .len n =>
        if buf.length < n then .wait
        else if checksumOk (buf.take n) then .accept n
        else .resync
    else .noise

/-- Discard the byte at the head and count it (10_state.md R19): the effect of D_NOISE, D_RESYNC and D_BADLEN. -/
def Decoder.dropOne (d : Decoder) : Decoder :=
  { d with rxBuf := d.rxBuf.drop 1, dropCount := d.dropCount + 1 }

/-- D_NOISE of 42_decoder.md R79. -/
def Decoder.noise (d : Decoder) : Decoder := d.dropOne

/-- D_RESYNC of 42_decoder.md R82. -/
def Decoder.resync (d : Decoder) : Decoder := d.dropOne

/-- D_BADLEN of 42_decoder.md R83. -/
def Decoder.badLen (d : Decoder) : Decoder := d.dropOne

/-- D_ACCEPT of 42_decoder.md R81. -/
def Decoder.accept (d : Decoder) (n : Nat) : Decoder :=
  { d with rxBuf := d.rxBuf.drop n, out := d.out ++ [d.rxBuf.take n] }

/-- The loop of 42_decoder.md R78, with at most `fuel` passes that do not return. -/
def Decoder.run : Nat → Decoder → Decoder
  | 0, d => d
  | fuel + 1, d =>
    match microStep d.rxBuf with
    | .wait => d
    | .noise => Decoder.run fuel d.noise
    | .badLen => Decoder.run fuel d.badLen
    | .accept n => Decoder.run fuel (d.accept n)
    | .resync => Decoder.run fuel d.resync

/-- The decoder's part of the state, with nothing put out yet. -/
def State.decoder (s : State) : Decoder := { rxBuf := s.rxBuf, dropCount := s.dropCount, out := [] }

/-- The decoder's part of the state once a byte is appended (42_decoder.md R77), with nothing put out yet. -/
def State.decoderWith (s : State) (b : Byte) : Decoder :=
  { rxBuf := s.rxBuf ++ [b], dropCount := s.dropCount, out := [] }

/-- The state with the decoder's part written back. -/
def State.withDecoder (s : State) (d : Decoder) : State :=
  { s with rxBuf := d.rxBuf, dropCount := d.dropCount }

/-- DECODE of 42_decoder.md R78: every pass that does not return removes a byte, so as many passes as there are bytes
are enough. -/
def decodeAll (d : Decoder) : Decoder := d.run d.rxBuf.length

/-! ### The transmit sequencer and the echo comparator (43_echo_collision.md) -/

/-- Clear the send's registers and go to IDLE: the common end of every send. -/
def State.endSend (s : State) : State :=
  { s with pending := none, curFrame := none, attempt := 0, lastFail := none, txPhase := .idle }

/-- TX_ISSUE of 43_echo_collision.md R90: the write and the arming are one step. -/
def txIssue (s : State) : Result :=
  match s.curFrame with
  | some f =>
    .next { s with
      attempt := s.attempt + 1
      trace := s.trace ++ [.wireTx f]
      pending := some f
      txPhase := .waitEcho }
  | none => .fault .noFrame

/-- FAIL_ATTEMPT of 43_echo_collision.md R92. -/
def failAttempt (kind : FailKind) (s : State) : Result :=
  match s.cfg with
  | some c =>
    if s.attempt < c.maxAttempts then
      .next { s with pending := none, lastFail := some kind, txPhase := .backoff }
    else .next (s.endSend.report (finalStatus kind))
  | none => .fault .noConfig

/-- DISPATCH of 43_echo_collision.md R91. -/
def dispatchFrame (f : Frame) (s : State) : Result :=
  if s.txPhase = .waitEcho then
    if s.pending = some f then .next (s.endSend.report .ok)
    else failAttempt .collision (s.emit (.frameOut f))
  else .next (s.emit (.frameOut f))

/-- DISPATCH of each frame in turn, with the state the previous one left (20_memory.md R46). -/
def dispatchAll : List Frame → State → Result
  | [], s => .next s
  | f :: rest, s => andThen (dispatchFrame f s) (dispatchAll rest)

/-- The size of the decoder's buffer (10_state.md R17). -/
def rxCapacity : Nat := 127

/-- RX_BYTE of 42_decoder.md R77 and R86. The append to a full buffer, which 42_decoder.md R84 excludes, is a fault
(log entry 10). -/
def receiveByte (b : Byte) (s : State) : Result :=
  match s.ctrl with
  | .closed => .next s
  | .opened =>
    if rxCapacity ≤ s.rxBuf.length then .fault .rxOverflow
    else
      let d := decodeAll (s.decoderWith b)
      dispatchAll d.out (s.withDecoder d)

/-- The state with these bytes as the environment's next events, one RX_BYTE each (30_encoding.md R67). -/
def State.withBytes (s : State) (bytes : List Byte) : State := { s with inputs := rxWords bytes ++ s.inputs }

/-- A wire row: its first byte is this step's one event (00_scope.md R12, 60_exceptions.md R111); its other bytes are
the events that come next, each a step of its own (log entry 6). -/
def receiveRow (first : Byte) (rest : List Byte) (s : State) : Result := receiveByte first (s.withBytes rest)

/-- The request hold of 43_echo_collision.md R88: a TX_REQ has no step while a send is in progress. -/
def State.requestHeld (s : State) : Bool := s.isOpen && s.busy

/-- A held request stays with the host: it is the environment's next event again (log entry 2). -/
def State.holdRequest (s : State) (m : Message) : State :=
  { s with inputs := .event (eventWord 2 0) m emptyConfig :: s.inputs }

/-! ### Sessions (44_control.md) -/

/-- A successful OPEN (44_control.md R101, 70_reset_and_hazards.md R121). -/
def State.openWith (s : State) (c : Config) : State :=
  { s with
    rxBuf := []
    dropCount := 0
    txPhase := .idle
    pending := none
    curFrame := none
    attempt := 0
    lastFail := none
    cfg := some c
    ctrl := .opened
    trace := s.trace ++ [.openDone .ok] }

/-- The end of a session (44_control.md R102, R103): the send in progress, if any, reports `st`; then STREAM_END, and
every element but `dropCount` is cleared. -/
def State.shutdown (s : State) (st : Status) : State :=
  let t := (if s.busy then s.report st else s).emit .streamEnd
  { t.endSend with rxBuf := [], cfg := none, ctrl := .closed }

end Sys2Proof.Machine
end

