-- ==== Sys2Proof/Machine/Checksum.lean ====
section
/-! DEFINITION. The checksum unit's two operations, run on their own (40_checksum.md). They write no state of the
spec's; the value goes to `result` (log entry 4). -/

namespace Sys2Proof.Machine

/-- CKS_GEN (40_checksum.md R68). -/
def execCksGen (pre : List Byte) (s : State) : Result := .next (s.returning (.byte (checksumOf pre)))

/-- CKS_CHK (40_checksum.md R69). -/
def execCksChk (f : Frame) (s : State) : Result := .next (s.returning (.check (checksumOk f)))

end Sys2Proof.Machine
end

