-- ==== Sys2Proof/Machine/Control.lean ====
section
/-! DEFINITION. The control family: OPEN, CLOSE, TRANSPORT_ERR (44_control.md) and the reserved event words
(30_encoding.md R64). -/

namespace Sys2Proof.Machine

/-- OPEN (44_control.md R101, R104). -/
def execOpen (c : Config) (s : State) : Result :=
  match s.ctrl with
  | .opened => .refused .openWhileOpen
  | .closed => .next (if configValid c then s.openWith c else s.emit (.openDone .configError))

/-- CLOSE (44_control.md R102). -/
def execClose (s : State) : Result :=
  match s.ctrl with
  | .closed => .next s
  | .opened => .next (s.shutdown .closed)

/-- TRANSPORT_ERR (44_control.md R103). -/
def execTransportErr (s : State) : Result :=
  match s.ctrl with
  | .closed => .next s
  | .opened => .next (s.shutdown .transportError)

/-- RESERVED_EVENT (30_encoding.md R64): a reserved word has no meaning, and the spec asks that it be refused. -/
def execReservedEvent (_word : EventWord) (_s : State) : Result := .refused .reservedWord

end Sys2Proof.Machine
end

