-- ==== Sys2Proof/Machine/Encoder.lean ====
section
/-! DEFINITION. The encoder's operations, run on their own (41_encoder.md). They write no state of the spec's; the
value goes to `result` (log entry 4). -/

namespace Sys2Proof.Machine

/-- MSG_BUILD (41_encoder.md R72). -/
def execMsgBuild (m : Message) (s : State) : Result := .next (s.returning (.built (messageError m)))

/-- ENCODE (41_encoder.md R73). -/
def execEncodeMsg (m : Message) (s : State) : Result := .next (s.returning (.frame (frameOfMessage m)))

/-- FRAME_MSG (41_encoder.md R74). -/
def execFrameMsg (f : Frame) (s : State) : Result := .next (s.returning (.message (messageOfFrame f)))

end Sys2Proof.Machine
end

