-- ==== Sys2Proof/Machine/Receive.lean ====
section
/-! DEFINITION. The receive family: RX_BYTE, and the decoder's operations run on their own (42_decoder.md). A
micro-operation outside its rule's Operands line is refused (log entry 5); no step of the machine runs one there. -/

namespace Sys2Proof.Machine

/-- RX_BYTE (42_decoder.md R77, R86). -/
def execRxByte (b : Byte) (s : State) : Result := receiveByte b s

/-- DECODE (42_decoder.md R78): it returns the frames it accepted, in order. -/
def execDecodeLoop (s : State) : Result :=
  let d := decodeAll s.decoder
  .next ((s.withDecoder d).returning (.frames d.out))

/-- D_NOISE (42_decoder.md R79). -/
def execDNoise (s : State) : Result :=
  if microStep s.rxBuf = .noise then .next (s.withDecoder s.decoder.noise) else .refused .operandsNotMet

/-- D_WAIT (42_decoder.md R80): the state is left as it is. -/
def execDWait (s : State) : Result :=
  if microStep s.rxBuf = .wait then .next s else .refused .operandsNotMet

/-- D_ACCEPT (42_decoder.md R81): it returns the frame it takes. -/
def execDAccept (n : Nat) (s : State) : Result :=
  if microStep s.rxBuf = .accept n then
    .next ((s.withDecoder (s.decoder.accept n)).returning (.frame (s.rxBuf.take n)))
  else .refused .operandsNotMet

/-- D_RESYNC (42_decoder.md R82). -/
def execDResync (s : State) : Result :=
  if microStep s.rxBuf = .resync then .next (s.withDecoder s.decoder.resync) else .refused .operandsNotMet

/-- D_BADLEN (42_decoder.md R83). -/
def execDBadLen (s : State) : Result :=
  if microStep s.rxBuf = .badLen then .next (s.withDecoder s.decoder.badLen) else .refused .operandsNotMet

end Sys2Proof.Machine
end

