-- ==== Sys2Proof/Machine/Transmit.lean ====
section
/-! DEFINITION. The transmit family: requests, timers, cancellation, and the sequencer's and comparator's operations
run on their own (43_echo_collision.md). -/

namespace Sys2Proof.Machine

/-- TX_REQ (43_echo_collision.md R88, R89): held while a send is in progress; `Closed` before any validation. -/
def execTxReq (m : Message) (s : State) : Result :=
  match s.ctrl with
  | .closed => .next (s.report .closed)
  | .opened =>
    if s.requestHeld then .next (s.holdRequest m)
    else
      match messageError m with
      | some e => .next (s.report e.status)
      | none => txIssue { s with curFrame := some (frameOfMessage m), attempt := 0, lastFail := none }

/-- TX_CANCEL (43_echo_collision.md R96). -/
def execTxCancel (s : State) : Result :=
  if s.isOpen && s.busy then .next (s.endSend.report .cancelled) else .next s

/-- ECHO_TIMEOUT (43_echo_collision.md R93): stale outside WAIT_ECHO and when closed. -/
def execEchoTimeout (s : State) : Result :=
  if s.ctrl = .opened ∧ s.txPhase = .waitEcho then failAttempt .timeout s else .next s

/-- BACKOFF_DONE (43_echo_collision.md R94): stale outside BACKOFF and when closed. -/
def execBackoffDone (s : State) : Result :=
  if s.ctrl = .opened ∧ s.txPhase = .backoff then txIssue s else .next s

/-- TX_ISSUE (43_echo_collision.md R90). -/
def execTxIssue (s : State) : Result := txIssue s

/-- DISPATCH (43_echo_collision.md R91). -/
def execDispatch (f : Frame) (s : State) : Result := dispatchFrame f s

/-- FAIL_ATTEMPT (43_echo_collision.md R92). -/
def execFailAttempt (kind : FailKind) (s : State) : Result := failAttempt kind s

end Sys2Proof.Machine
end

