-- ==== Sys2Proof/Machine/Wire.lean ====
section
/-! DEFINITION. The wire rows: a candidate of each length class, and a data byte, delivered by the bus. A wire row is
exactly its bytes received one after another, one event and one step a byte (20_memory.md R35, 30_encoding.md R67,
60_exceptions.md R111; log entry 6): the row's step receives the first byte and leaves the others as the next events.
What the decoder does with them (accept, resync, bad length, noise) is RX_BYTE's rule. -/

namespace Sys2Proof.Machine

/-- FRAME_C2 (30_encoding.md R52): opcode, checksum. -/
def execFrameC2 (op cks : Byte) (s : State) : Result := receiveRow op [cks] s

/-- FRAME_C4 (30_encoding.md R53): opcode, two payload bytes, checksum. -/
def execFrameC4 (op p0 p1 cks : Byte) (s : State) : Result := receiveRow op [p0, p1, cks] s

/-- FRAME_C6 (30_encoding.md R53): opcode, four payload bytes, checksum. -/
def execFrameC6 (op p0 p1 p2 p3 cks : Byte) (s : State) : Result :=
  receiveRow op [p0, p1, p2, p3, cks] s

/-- FRAME_VAR (30_encoding.md R54): opcode, length byte, then payload and checksum. -/
def execFrameVar (op len : Byte) (body : List Byte) (s : State) : Result :=
  receiveRow op (len :: body) s

/-- DATA_BYTE (42_decoder.md R79 and the table's note): noise at the head of the buffer, else a byte of the candidate
that waits there. -/
def execDataByte (b : Byte) (s : State) : Result := receiveByte b s

end Sys2Proof.Machine
end

