-- ==== Sys2Proof/Machine/Dispatch.lean ====
section
/-! DEFINITION. One arm per row of the opcode table. -/

namespace Sys2Proof.Machine

def exec (i : Instr) (s : State) : Host.Outcome State Fault Refusal :=
  match i with
  -- wire rows
  | .frameC2 op cks => Sys2Proof.Machine.execFrameC2 op cks s
  | .frameC4 op p0 p1 cks => Sys2Proof.Machine.execFrameC4 op p0 p1 cks s
  | .frameC6 op p0 p1 p2 p3 cks => Sys2Proof.Machine.execFrameC6 op p0 p1 p2 p3 cks s
  | .frameVar op len body => Sys2Proof.Machine.execFrameVar op len body s
  | .dataByte b => Sys2Proof.Machine.execDataByte b s
  -- event rows
  | .rxByte b => Sys2Proof.Machine.execRxByte b s
  | .txReq m => Sys2Proof.Machine.execTxReq m s
  | .txCancel => Sys2Proof.Machine.execTxCancel s
  | .echoTimeout => Sys2Proof.Machine.execEchoTimeout s
  | .backoffDone => Sys2Proof.Machine.execBackoffDone s
  | .openBlock c => Sys2Proof.Machine.execOpen c s
  | .closeBlock => Sys2Proof.Machine.execClose s
  | .transportErr => Sys2Proof.Machine.execTransportErr s
  | .reservedEvent word => Sys2Proof.Machine.execReservedEvent word s
  -- internal operations
  | .cksGen pre => Sys2Proof.Machine.execCksGen pre s
  | .cksChk f => Sys2Proof.Machine.execCksChk f s
  | .msgBuild m => Sys2Proof.Machine.execMsgBuild m s
  | .encodeMsg m => Sys2Proof.Machine.execEncodeMsg m s
  | .frameMsg f => Sys2Proof.Machine.execFrameMsg f s
  | .decodeLoop => Sys2Proof.Machine.execDecodeLoop s
  | .dNoise => Sys2Proof.Machine.execDNoise s
  | .dWait => Sys2Proof.Machine.execDWait s
  | .dAccept n => Sys2Proof.Machine.execDAccept n s
  | .dResync => Sys2Proof.Machine.execDResync s
  | .dBadLen => Sys2Proof.Machine.execDBadLen s
  | .txIssue => Sys2Proof.Machine.execTxIssue s
  | .dispatch f => Sys2Proof.Machine.execDispatch f s
  | .failAttempt kind => Sys2Proof.Machine.execFailAttempt kind s

end Sys2Proof.Machine
end

