-- ==== Sys2Proof/Machine/Fetch.lean ====
section
/-! DEFINITION. Which of the environment's events is taken next (00_scope.md R12, 43_echo_collision.md R88). -/

namespace Sys2Proof.Machine

/-- Whether an input may be taken now: all may, but a TX_REQ while a send is in progress (43_echo_collision.md R88). -/
def inputEnabled (s : State) : Input → Bool
  | .event word _ _ => !(word == eventWord 2 0 && s.requestHeld)
  | .wire _ _ => true

/-- The first input that `ok` allows, with the inputs before and after it. -/
def firstEnabled (ok : Input → Bool) : List Input → Option (List Input × Input × List Input)
  | [] => none
  | inp :: rest =>
    if ok inp then some ([], inp, rest)
    else (firstEnabled ok rest).map fun (before, found, after) => (inp :: before, found, after)

/-- The instruction to run next and the state without its words: the first enabled input is decoded; what is left of a
burst stays in its place, and so do held requests (log entries 1 and 2). `none` when no input is enabled. -/
def fetch (s : State) : Option (Instr × State) :=
  (firstEnabled (inputEnabled s) s.inputs).map fun (before, inp, after) =>
    ((decodeInput inp).1, { s with inputs := before ++ (decodeInput inp).2 ++ after })

/-- The state with an input placed first in the environment's list. -/
def State.withInput (s : State) (inp : Input) : State := { s with inputs := inp :: s.inputs }

/-- The state with the inputs of a program line placed first (30_encoding.md R66, R67). -/
def State.withLine (s : State) (line : EventLine) : State :=
  { s with inputs := line.inputs s.pending ++ s.inputs }

end Sys2Proof.Machine
end

