-- ==== Sys2Proof/Machine/Step.lean ====
section
/-! DEFINITION. The step: one input event is one atomic step (00_scope.md R12). -/

namespace Sys2Proof.Machine

/-- Take the environment's next enabled event and run it; with none, nothing changes until one comes
(60_exceptions.md R118; log entry 3). -/
def step (s : State) : Host.Outcome State Fault Refusal :=
  match fetch s with
  | some (i, t) => exec i t
  | none => .next s

/-- The state with a word of the opcode table as the environment's next input (log entries 14 and 15). -/
def State.withFetchWord (s : State) (nbits w : Nat) : State :=
  match tableInput nbits w with
  | some inp => s.withInput inp
  | none => s

end Sys2Proof.Machine
end

