-- ==== Sys2Proof/Safety.lean ====
section
/-! DEFINITION. What holds between steps, and the runs that claims speak of. -/

namespace Sys2Proof.Machine

/-- `steps k s`: k steps, stopping at the first fault or refusal. -/
def steps : Nat → State → Result
  | 0, s => .next s
  | k + 1, s => andThen (step s) (steps k)

/-- The invariants of 10_state.md R26, with R20, R24, R25, R29 and 00_scope.md R4 beside them. They speak of the
spec's elements only: any trace, any coming inputs and any `result` may stand in the state. -/
structure Inv (s : State) : Prop where
  /-- R26 item 1: a closed block is empty. -/
  closedEmpty : s.ctrl = .closed →
    s.cfg = none ∧ s.rxBuf = [] ∧ s.txPhase = .idle ∧ s.pending = none ∧ s.curFrame = none ∧ s.attempt = 0 ∧
      s.lastFail = none
  /-- R20, R29, R3, R4: an open block holds a configuration that meets what the spec requires of one. -/
  openConfigured : s.ctrl = .opened → ∃ c, s.cfg = some c ∧ configRequired c = true
  /-- R26 item 2: the comparator is armed exactly in WAIT_ECHO … -/
  armedIffWaiting : s.pending.isSome = true ↔ s.txPhase = .waitEcho
  /-- … and then holds the current frame. -/
  armedWithCurrent : s.txPhase = .waitEcho → s.pending = s.curFrame
  /-- R26 item 3. -/
  currentIffBusy : s.curFrame.isSome = true ↔ s.txPhase ≠ .idle
  /-- R26 item 4. -/
  attemptInRange : s.txPhase ≠ .idle →
    ∃ c, s.cfg = some c ∧ 1 ≤ s.attempt.toNat ∧ s.attempt.toNat ≤ c.maxAttempts.toNat
  /-- R26 item 5. -/
  backoffHasNext : s.txPhase = .backoff →
    (∃ c, s.cfg = some c ∧ s.attempt.toNat < c.maxAttempts.toNat) ∧ s.lastFail ≠ none
  /-- R26 item 6: the buffer is empty, or starts with an opcode whose frame is not all there. -/
  bufferWaits : s.rxBuf = [] ∨
    (isOpcode (s.rxBuf.headD 0) = true ∧
      ((expLen s.rxBuf = .needMore ∧ s.rxBuf.length = 1) ∨
        ∃ n, expLen s.rxBuf = .len n ∧ s.rxBuf.length < n))
  /-- R26 item 6: in every case at most 126 bytes are held. -/
  bufferRoom : s.rxBuf.length ≤ 126
  /-- R26 item 7. -/
  currentIsFrame : ∀ f, s.curFrame = some f → isFrame f = true
  /-- R24, R25: no attempt and no failure is recorded when idle. -/
  idleClear : s.txPhase = .idle → s.attempt = 0 ∧ s.lastFail = none
  /-- R25: while waiting, no failure is recorded exactly during the first attempt. -/
  firstAttempt : s.txPhase = .waitEcho → (s.lastFail = none ↔ s.attempt = 1)

/-- An infinite run of the machine. -/
def IsRun (r : Nat → State) : Prop := ∀ k, step (r k) = .next (r (k + 1))

/-- The two fairness assumptions of 43_echo_collision.md R95: WAIT_ECHO is left, and BACKOFF is left. -/
def FairRun (r : Nat → State) : Prop :=
  (∀ k, (r k).txPhase = .waitEcho → ∃ j, k < j ∧ (r j).txPhase ≠ .waitEcho) ∧
  (∀ k, (r k).txPhase = .backoff → ∃ j, k < j ∧ (r j).txPhase ≠ .backoff)

/-- Whether an output is the report of a send. -/
def Output.isTxDone : Output → Bool
  | .wireTx _ => false
  | .frameOut _ => false
  | .txDone _ => true
  | .openDone _ => false
  | .streamEnd => false

/-- Whether an output is a write to the wire. -/
def Output.isWireTx : Output → Bool
  | .wireTx _ => true
  | .frameOut _ => false
  | .txDone _ => false
  | .openDone _ => false
  | .streamEnd => false

/-- The bytes an input brings: those of a burst, or the data field of an event word (30_encoding.md R59). -/
def inputBytes : Input → List Byte
  | .event word _ _ => [BitVec.ofNat 8 word.toNat]
  | .wire first rest => first :: rest

/-- How an attempt of a send ends without success: another device's frame is decoded (`some f`), or the echo timer
fires (`none`). -/
abbrev FailedAttempt := Option Frame

/-- The events that end an attempt this way. -/
def failedAttemptInputs : FailedAttempt → List Input
  | some f => rxWords f
  | none => [plainEvent 4 0]

/-- The events of attempts that all fail, with a BACKOFF_DONE between each two (43_echo_collision.md R99). -/
def failedSendInputs : List FailedAttempt → List Input
  | [] => []
  | [a] => failedAttemptInputs a
  | a :: rest => failedAttemptInputs a ++ plainEvent 5 0 :: failedSendInputs rest

/-- The frame another device's attempt-ending frame puts out, if there is one. -/
def failedAttemptOutputs : FailedAttempt → List Output
  | some f => [.frameOut f]
  | none => []

/-- The status an attempt's failure gives the send when it is the last (43_echo_collision.md R92). -/
def failedAttemptStatus : FailedAttempt → Status
  | some _ => .transmitCollision
  | none => .transmitTimeout

/-- What a send of `frame` puts out when its attempts all fail: each attempt writes the frame, and the last one's kind
decides the report (43_echo_collision.md R92, R99). -/
def failedSendOutputs (frame : Frame) : List FailedAttempt → List Output
  | [] => []
  | [a] => .wireTx frame :: (failedAttemptOutputs a ++ [.txDone (failedAttemptStatus a)])
  | a :: rest => .wireTx frame :: (failedAttemptOutputs a ++ failedSendOutputs frame rest)

end Sys2Proof.Machine
end

