-- ==== Sys2Proof/Certificates/Slice0/Obligations.lean ====
section
/-! DEFINITION. The statements about the model, for the provers: encodings, the checksum unit, the encoder, the
decoder, the transmit sequencer and comparator, sessions, and the whole machine. -/

open Sys2Proof Sys2Proof.Machine

/-! ### Encodings -/

/-- Every well-formed instruction that has words decodes from them, with every operand, and nothing is left over. -/
def Obligations.DecodeOfEncode : Prop :=
  ∀ i : Instr, i.wf = true → i.isInternal = false → ∃ inp, encode i = some inp ∧ decodeInput inp = (i, [])

/-- Every event word, reserved or not, is the word of the instruction it decodes to, whatever stands on the ports. -/
def Obligations.EncodeOfDecodedEventWord : Prop :=
  ∀ (w : EventWord) (m : Message) (c : Config),
    ∃ m' c', encode (decodeEvent w m c) = some (.event w m' c')

/-- Decoding a burst drops no byte and changes none: the first unit's bytes and what is left are the burst, and the
unit is well-formed. -/
def Obligations.BurstDecodesWithoutLoss : Prop :=
  ∀ (first : Byte) (rest : List Byte), ∃ inp,
    encode (decodeWire first rest).1 = some inp ∧
    (decodeWire first rest).1.wf = true ∧
    inputBytes inp ++ (decodeWire first rest).2.flatMap inputBytes = first :: rest

/-- A few words and frames of 95_test_vectors.md, as their encodings give them (30_encoding.md R60, R66, V1, V2, V9). -/
def Obligations.SampleWordsDecode : Prop :=
  (∀ m c, decodeInput (.event 0x17D m c) = (.rxByte 0x7D, [])) ∧
  (∀ m c, decodeInput (.event 0x200 m c) = (.txReq m, [])) ∧
  (∀ m c, decodeInput (.event 0x300 m c) = (.txCancel, [])) ∧
  (∀ m c, decodeInput (.event 0x600 m c) = (.openBlock c, [])) ∧
  (∀ m c, decodeInput (.event 0x301 m c) = (.reservedEvent 0x301, [])) ∧
  decodeInput (.wire 0x82 [0x7D]) = (.frameC2 0x82 0x7D, []) ∧
  decodeInput (.wire 0xA0 [0x01, 0x02, 0x5C]) = (.frameC4 0xA0 0x01 0x02 0x5C, []) ∧
  decodeInput (.wire 0xD0 [0x01, 0x02, 0x03, 0x04, 0x2B]) = (.frameC6 0xD0 0x01 0x02 0x03 0x04 0x2B, []) ∧
  decodeInput (.wire 0xE4 [0x05, 0x01, 0x02, 0x1D]) = (.frameVar 0xE4 0x05 [0x01, 0x02, 0x1D], []) ∧
  decodeInput (.wire 0x7F []) = (.dataByte 0x7F, [])

/-- 30_encoding.md R64: a word with code 0x0 or 0x9-0xF, or with code 0x2-0x8 and nonzero data, is reserved, and the
step that meets it is refused; every other word decodes to an event of the table. -/
def Obligations.ReservedWordsAreRefused : Prop :=
  ∀ (w : EventWord) (m : Message) (c : Config) (s : State),
    ((w.toNat / 256 = 0 ∨ 9 ≤ w.toNat / 256 ∨ (2 ≤ w.toNat / 256 ∧ w.toNat / 256 ≤ 8 ∧ w.toNat % 256 ≠ 0)) →
      decodeEvent w m c = .reservedEvent w ∧
      exec (.reservedEvent w) s = .refused .reservedWord ∧
      step (s.withInput (.event w m c)) = .refused .reservedWord) ∧
    (¬ (w.toNat / 256 = 0 ∨ 9 ≤ w.toNat / 256 ∨ (2 ≤ w.toNat / 256 ∧ w.toNat / 256 ≤ 8 ∧ w.toNat % 256 ≠ 0)) →
      ∀ w', decodeEvent w m c ≠ .reservedEvent w')

/-! ### The checksum unit -/

/-- CKS_GEN and CKS_CHK complete in every state, with the values of 40_checksum.md R68 and R69 written out over the
bytes from the first to the last, and change nothing else (the value's place, `result`, is the model's, log entry 4). -/
def Obligations.ChecksumUnitCompletes : Prop :=
  ∀ (bytes : List Byte) (s : State),
    exec (.cksGen bytes) s = .next { s with result := .byte (0xFF ^^^ bytes.foldl (· ^^^ ·) 0) } ∧
    exec (.cksChk bytes) s = .next { s with result := .check (decide (bytes.foldl (· ^^^ ·) 0 = 0xFF)) }

/-- 40_checksum.md R70: the laws of XOR on bytes, and the checksum invariant. -/
def Obligations.ChecksumLaws : Prop :=
  (∀ a b c : Byte, a ^^^ (b ^^^ c) = (a ^^^ b) ^^^ c ∧ a ^^^ b = b ^^^ a ∧ 0x00 ^^^ b = b ∧ b ^^^ b = 0x00) ∧
  (∀ pre : List Byte, xorBytes (pre ++ [checksumOf pre]) = 0xFF) ∧
  (∀ (pre : List Byte) (c : Byte), checksumOk (pre ++ [c]) = true ↔ c = checksumOf pre)

/-- 40_checksum.md R71: of a frame that passes, a changed copy passes exactly when the XOR of the changes is 0x00; a
change of a single byte is always detected. -/
def Obligations.ChecksumDetectsErrors : Prop :=
  ∀ f : Frame, checksumOk f = true →
    (∀ g : Frame, g.length = f.length →
      (checksumOk g = false ↔ xorBytes (List.zipWith (· ^^^ ·) f g) ≠ 0x00)) ∧
    (∀ (i : Nat) (b : Byte), i < f.length → f[i]? ≠ some b → checksumOk (f.set i b) = false)

/-- 30_encoding.md R58: with bit 7 set in the opcode and clear in every other byte, the checksum has bit 7 clear. -/
def Obligations.DataFrameChecksumIsDataByte : Prop :=
  ∀ (op : Byte) (rest : List Byte), isOpcode op = true → (∀ b ∈ rest, isOpcode b = false) →
    isOpcode (checksumOf (op :: rest)) = false

/-! ### The encoder -/

/-- MSG_BUILD completes in every state and finds what 41_encoder.md R72 says, written with the opcode ranges of
30_encoding.md R52-R54; it changes nothing else (`result` is the model's place for the value, log entry 4). -/
def Obligations.MessageValidation : Prop :=
  ∀ (m : Message) (s : State),
    exec (.msgBuild m) s = .next { s with
      result := .built
        (if m.op.toNat < 0x80 then some .invalidOpcode
         else if (m.op.toNat < 0xA0 ∧ m.payload.length = 0) ∨
             (0xA0 ≤ m.op.toNat ∧ m.op.toNat < 0xC0 ∧ m.payload.length = 2) ∨
             (0xC0 ≤ m.op.toNat ∧ m.op.toNat < 0xE0 ∧ m.payload.length = 4) ∨
             (0xE0 ≤ m.op.toNat ∧ 3 ≤ m.declLen.toNat ∧ m.declLen.toNat ≤ 127 ∧
               m.payload.length + 3 = m.declLen.toNat) then none
         else some .invalidLength) }

/-- ENCODE completes in every state; for a valid message the frame is opcode, length byte (variable class only),
payload and checksum (41_encoder.md R73), it is a valid frame of 2 to 127 bytes, and its length is 2, 4, 6 or the
declared length (`result` is the model's place for the value, log entry 4). -/
def Obligations.EncodeBuildsValidFrame : Prop :=
  ∀ (m : Message) (s : State), messageError m = none →
    ∃ cks : Byte,
      exec (.encodeMsg m) s = .next { s with
        result := .frame (m.op :: ((if 0xE0 ≤ m.op.toNat then [m.declLen] else []) ++ m.payload ++ [cks])) } ∧
      frameOfMessage m = m.op :: ((if 0xE0 ≤ m.op.toNat then [m.declLen] else []) ++ m.payload ++ [cks]) ∧
      isFrame (frameOfMessage m) = true ∧
      (frameOfMessage m).length =
        (if m.op.toNat < 0xA0 then 2 else if m.op.toNat < 0xC0 then 4
         else if m.op.toNat < 0xE0 then 6 else m.declLen.toNat) ∧
      2 ≤ (frameOfMessage m).length ∧ (frameOfMessage m).length ≤ 127

/-- 41_encoder.md R75: two valid messages are equal (opcode and payload) exactly when their frames are equal, and
equal variable-class messages have equal declared lengths. -/
def Obligations.MessageEqualityIsFrameEquality : Prop :=
  ∀ m m' : Message, messageError m = none → messageError m' = none →
    (messageEq m m' = true ↔ (m.op = m'.op ∧ m.payload = m'.payload)) ∧
    (messageEq m m' = true ↔ frameOfMessage m = frameOfMessage m') ∧
    (messageEq m m' = true → lengthClass m.op = .var → m.declLen = m'.declLen)

/-- 41_encoder.md R74: FRAME_MSG of an accepted frame completes with the record the rule gives, the record is valid,
and ENCODE gives the frame back. (`result` is the model's place for the value, log entry 4.) -/
def Obligations.FrameMessageInvertsEncode : Prop :=
  ∀ (f : Frame) (s : State), isFrame f = true → ∃ m : Message,
    exec (.frameMsg f) s = .next { s with result := .message m } ∧
    f[0]? = some m.op ∧
    (lengthClass m.op = .var → f[1]? = some m.declLen ∧ m.payload = (f.drop 2).take (f.length - 3)) ∧
    (lengthClass m.op ≠ .var → m.declLen.toNat = f.length ∧ m.payload = (f.drop 1).take (f.length - 2)) ∧
    messageError m = none ∧ frameOfMessage m = f

/-! ### The decoder -/

/-- 42_decoder.md R86: a byte received while the block is closed changes nothing and puts nothing out. -/
def Obligations.ClosedBlockIgnoresBytes : Prop :=
  ∀ (b : Byte) (s : State), s.ctrl = .closed → exec (.rxByte b) s = .next s

/-- The noise, resync and bad-length micro-steps complete on the operands of 42_decoder.md R79, R82 and R83: exactly
one byte leaves the head, it is counted, and nothing else changes. -/
def Obligations.DropMicroStepsDropOneByte : Prop :=
  (∀ (s : State) (b : Byte) (rest : List Byte), s.rxBuf = b :: rest → isOpcode b = false →
    exec .dNoise s = .next { s with rxBuf := rest, dropCount := s.dropCount + 1 }) ∧
  (∀ (s : State) (op : Byte) (rest : List Byte) (n : Nat), s.rxBuf = op :: rest → isOpcode op = true →
    expLen s.rxBuf = .len n → n ≤ s.rxBuf.length → checksumOk (s.rxBuf.take n) = false →
    exec .dResync s = .next { s with rxBuf := rest, dropCount := s.dropCount + 1 }) ∧
  (∀ (s : State) (op len : Byte) (rest : List Byte), s.rxBuf = op :: len :: rest → 0xE0 ≤ op.toNat →
    (len.toNat < 3 ∨ 127 < len.toNat) →
    exec .dBadLen s = .next { s with rxBuf := len :: rest, dropCount := s.dropCount + 1 })

/-- The wait and accept micro-steps complete on the operands of 42_decoder.md R80 and R81: waiting leaves the state as
it is; accepting takes the frame from the head and leaves `dropCount`. (`result` is the model's place for the frame
D_ACCEPT appends to DECODE's output, log entry 4.) -/
def Obligations.WaitAndAcceptMicroSteps : Prop :=
  (∀ s : State, s.rxBuf = [] → exec .dWait s = .next s) ∧
  (∀ (s : State) (op : Byte) (rest : List Byte), s.rxBuf = op :: rest → isOpcode op = true →
    (expLen s.rxBuf = .needMore ∨ ∃ n, expLen s.rxBuf = .len n ∧ s.rxBuf.length < n) →
    exec .dWait s = .next s) ∧
  (∀ (s : State) (op : Byte) (rest : List Byte) (n : Nat), s.rxBuf = op :: rest → isOpcode op = true →
    expLen s.rxBuf = .len n → n ≤ s.rxBuf.length → checksumOk (s.rxBuf.take n) = true →
    exec (.dAccept n) s = .next { s with rxBuf := s.rxBuf.drop n, result := .frame (s.rxBuf.take n) })

/-- 42_decoder.md R78: DECODE is the loop of its pseudocode, one pass unrolled and the loop again, for every buffer
(so it ends for every buffer); run on its own it completes and writes the buffer and the counter only (`result` is the
model's place for the frames, log entry 4). -/
def Obligations.DecodeIsTheLoop : Prop :=
  (∀ d : Decoder,
    decodeAll d =
      match d.rxBuf with
      | [] => d
      | op :: rest =>
        if isOpcode op = false then decodeAll { d with rxBuf := rest, dropCount := d.dropCount + 1 }
        else
          match expLen (op :: rest) with
          | .needMore => d
          | .badLen => decodeAll { d with rxBuf := rest, dropCount := d.dropCount + 1 }
          | .len n =>
            if (op :: rest).length < n then d
            else if checksumOk ((op :: rest).take n) then
              decodeAll { d with rxBuf := (op :: rest).drop n, out := d.out ++ [(op :: rest).take n] }
            else decodeAll { d with rxBuf := rest, dropCount := d.dropCount + 1 }) ∧
  (∀ s : State,
    exec .decodeLoop s = .next { s with
      rxBuf := (decodeAll { rxBuf := s.rxBuf, dropCount := s.dropCount, out := [] }).rxBuf
      dropCount := (decodeAll { rxBuf := s.rxBuf, dropCount := s.dropCount, out := [] }).dropCount
      result := .frames (decodeAll { rxBuf := s.rxBuf, dropCount := s.dropCount, out := [] }).out })

/-- 42_decoder.md R84: when DECODE returns, the buffer is empty, or its head has bit 7 set and is a variable-class
opcode alone or a candidate shorter than its expected length; so at most 126 bytes are held, and an append makes at
most 127. -/
def Obligations.DecoderQuiescence : Prop :=
  ∀ (d : Decoder) (b : Byte),
    ((decodeAll d).rxBuf = [] ∨
      (isOpcode ((decodeAll d).rxBuf.headD 0) = true ∧
        ((∃ op, (decodeAll d).rxBuf = [op] ∧ lengthClass op = .var) ∨
          ∃ n, expLen (decodeAll d).rxBuf = .len n ∧ (decodeAll d).rxBuf.length < n))) ∧
    (decodeAll d).rxBuf.length ≤ 126 ∧ ((decodeAll d).rxBuf ++ [b]).length ≤ 127

/-- Every byte the decoder takes from the buffer is in a frame it put out or is counted in `dropCount`, modulo 2^32
(10_state.md R19, 42_decoder.md R78-R83). -/
def Obligations.DecoderCountsEveryDroppedByte : Prop :=
  ∀ (buf : List Byte) (count : DropCount), ∃ dropped : Nat,
    buf.length =
      (decodeAll { rxBuf := buf, dropCount := count, out := [] }).rxBuf.length +
      (decodeAll { rxBuf := buf, dropCount := count, out := [] }).out.flatten.length + dropped ∧
    (decodeAll { rxBuf := buf, dropCount := count, out := [] }).dropCount = count + BitVec.ofNat 32 dropped

/-- What DECODE puts out are valid frames, each a run of consecutive bytes of the buffer, in their order, and what it
keeps is an end of the buffer (42_decoder.md R81, 20_memory.md R44). -/
def Obligations.DecoderPutsOutValidFramesInOrder : Prop :=
  ∀ (buf : List Byte) (count : DropCount),
    (∀ f ∈ (decodeAll { rxBuf := buf, dropCount := count, out := [] }).out, isFrame f = true ∧ f <:+: buf) ∧
    ((decodeAll { rxBuf := buf, dropCount := count, out := [] }).out.flatten ++
      (decodeAll { rxBuf := buf, dropCount := count, out := [] }).rxBuf).Sublist buf ∧
    (decodeAll { rxBuf := buf, dropCount := count, out := [] }).rxBuf <:+ buf

/-- RX_BYTE while no echo is awaited completes for every byte: the byte is appended, DECODE runs, and every frame it
accepts is put out as inbound traffic, in order; nothing else changes (42_decoder.md R77, 43_echo_collision.md R91). -/
def Obligations.ReceiveForwardsEveryFrame : Prop :=
  ∀ (b : Byte) (s : State), s.ctrl = .opened → s.rxBuf.length ≤ 126 → s.txPhase ≠ .waitEcho →
    exec (.rxByte b) s = .next { s with
      rxBuf := (decodeAll { rxBuf := s.rxBuf ++ [b], dropCount := s.dropCount, out := [] }).rxBuf
      dropCount := (decodeAll { rxBuf := s.rxBuf ++ [b], dropCount := s.dropCount, out := [] }).dropCount
      trace := s.trace ++
        (decodeAll { rxBuf := s.rxBuf ++ [b], dropCount := s.dropCount, out := [] }).out.map .frameOut }

/-- RX_BYTE while an echo is awaited completes: the first frame decoded is compared with `pending`; equal, it confirms
the send and is not put out; different, it is put out and fails the attempt, which is retried or ends the send; every
later frame of the step is ordinary inbound traffic (43_echo_collision.md R91, R92, 60_exceptions.md R112). -/
def Obligations.ReceiveComparesFirstFrame : Prop :=
  ∀ (b : Byte) (s : State) (c : Config) (d : Decoder),
    s.ctrl = .opened → s.rxBuf.length ≤ 126 → s.txPhase = .waitEcho → s.cfg = some c →
    decodeAll { rxBuf := s.rxBuf ++ [b], dropCount := s.dropCount, out := [] } = d →
    exec (.rxByte b) s = .next
      (match d.out with
       | [] => { s with rxBuf := d.rxBuf, dropCount := d.dropCount }
       | f :: rest =>
         if s.pending = some f then
           { s with
             rxBuf := d.rxBuf, dropCount := d.dropCount
             pending := none, curFrame := none, attempt := 0, lastFail := none, txPhase := .idle
             trace := s.trace ++ .txDone .ok :: rest.map .frameOut }
         else if s.attempt.toNat < c.maxAttempts.toNat then
           { s with
             rxBuf := d.rxBuf, dropCount := d.dropCount
             pending := none, lastFail := some .collision, txPhase := .backoff
             trace := s.trace ++ .frameOut f :: rest.map .frameOut }
         else
           { s with
             rxBuf := d.rxBuf, dropCount := d.dropCount
             pending := none, curFrame := none, attempt := 0, lastFail := none, txPhase := .idle
             trace := s.trace ++ .frameOut f :: .txDone .transmitCollision :: rest.map .frameOut })

/-- A wire row is its bytes received one after another, first byte first, one event and one step a byte (20_memory.md
R35, 30_encoding.md R67, 60_exceptions.md R111): the row's own step is RX_BYTE of its first byte, with RX_BYTE of each
other byte as the events that come next; and a burst taken to its end is its RX_BYTE words taken to their end. (That
the other bytes stand first among the coming events is the model's choice, log entry 6.) -/
def Obligations.WireRowsAreTheirBytes : Prop :=
  (∀ s : State,
    (∀ b, exec (.dataByte b) s = exec (.rxByte b) s) ∧
    (∀ op cks, exec (.frameC2 op cks) s = exec (.rxByte op) { s with inputs := rxWords [cks] ++ s.inputs }) ∧
    (∀ op p0 p1 cks, exec (.frameC4 op p0 p1 cks) s =
      exec (.rxByte op) { s with inputs := rxWords [p0, p1, cks] ++ s.inputs }) ∧
    (∀ op p0 p1 p2 p3 cks, exec (.frameC6 op p0 p1 p2 p3 cks) s =
      exec (.rxByte op) { s with inputs := rxWords [p0, p1, p2, p3, cks] ++ s.inputs }) ∧
    (∀ op len body, exec (.frameVar op len body) s =
      exec (.rxByte op) { s with inputs := rxWords (len :: body) ++ s.inputs })) ∧
  (∀ (s : State) (first : Byte) (rest : List Byte) (tail : List Input),
    steps (1 + rest.length) { s with inputs := .wire first rest :: tail } =
      steps (1 + rest.length) { s with inputs := rxWords (first :: rest) ++ tail })

/-- A valid wire frame that meets an open block with an empty buffer and no echo awaited: the row's own step completes,
holds the opcode in the buffer and leaves the other bytes as the next events; after one step for each of them the
frame is put out as one FRAME_OUT and nothing else has changed. A data byte there is dropped and counted
(41_encoder.md R76, 42_decoder.md R79; the place of the coming bytes is the model's choice, log entry 6). -/
def Obligations.ValidWireFramesAreDelivered : Prop :=
  ∀ s : State, s.ctrl = .opened → s.rxBuf = [] → s.txPhase ≠ .waitEcho →
    (∀ op cks, isFrame [op, cks] = true →
      ∃ t, exec (.frameC2 op cks) s = .next t ∧
        t = { s with rxBuf := [op], inputs := rxWords [cks] ++ s.inputs } ∧
        steps 1 t = .next { s with trace := s.trace ++ [.frameOut [op, cks]] }) ∧
    (∀ op p0 p1 cks, isFrame [op, p0, p1, cks] = true →
      ∃ t, exec (.frameC4 op p0 p1 cks) s = .next t ∧
        t = { s with rxBuf := [op], inputs := rxWords [p0, p1, cks] ++ s.inputs } ∧
        steps 3 t = .next { s with trace := s.trace ++ [.frameOut [op, p0, p1, cks]] }) ∧
    (∀ op p0 p1 p2 p3 cks, isFrame [op, p0, p1, p2, p3, cks] = true →
      ∃ t, exec (.frameC6 op p0 p1 p2 p3 cks) s = .next t ∧
        t = { s with rxBuf := [op], inputs := rxWords [p0, p1, p2, p3, cks] ++ s.inputs } ∧
        steps 5 t = .next { s with trace := s.trace ++ [.frameOut [op, p0, p1, p2, p3, cks]] }) ∧
    (∀ op len body, isFrame (op :: len :: body) = true →
      ∃ t, exec (.frameVar op len body) s = .next t ∧
        t = { s with rxBuf := [op], inputs := rxWords (len :: body) ++ s.inputs } ∧
        steps (1 + body.length) t = .next { s with trace := s.trace ++ [.frameOut (op :: len :: body)] }) ∧
    (∀ b, isOpcode b = false →
      exec (.dataByte b) s = .next { s with dropCount := s.dropCount + 1 })

/-- In every state that meets the invariant, every wire row and every RX_BYTE completes, whatever its bytes; the next
state meets the invariant, keeps the session (`ctrl`, `cfg`) and `result`, only adds to the trace and writes nothing to
the wire; the row's other bytes are the events that come next (their place is the model's choice, log entry 6). -/
def Obligations.ReceivingAlwaysCompletes : Prop :=
  ∀ (i : Instr) (b : Byte) (rest : List Byte) (s : State), Inv s →
    ((i = .rxByte b ∧ rest = []) ∨ (i = .dataByte b ∧ rest = []) ∨
      (∃ cks, i = .frameC2 b cks ∧ rest = [cks]) ∨
      (∃ p0 p1 cks, i = .frameC4 b p0 p1 cks ∧ rest = [p0, p1, cks]) ∨
      (∃ p0 p1 p2 p3 cks, i = .frameC6 b p0 p1 p2 p3 cks ∧ rest = [p0, p1, p2, p3, cks]) ∨
      (∃ len body, i = .frameVar b len body ∧ rest = len :: body)) →
    ∃ t seg, exec i s = .next t ∧ Inv t ∧ t.ctrl = s.ctrl ∧ t.cfg = s.cfg ∧ t.inputs = rxWords rest ++ s.inputs ∧
      t.result = s.result ∧ t.trace = s.trace ++ seg ∧ ∀ f, .wireTx f ∉ seg

/-- 41_encoder.md R76: the bytes of ENCODE(m), given one by one as RX_BYTE events to an open block with an empty
buffer and no echo awaited, put nothing out before the last byte, and exactly FRAME_OUT(ENCODE(m)) at the last; the
buffer is empty again and `dropCount` unchanged. -/
def Obligations.RoundTripByteByByte : Prop :=
  ∀ (m : Message) (s : State) (tail : List Input), messageError m = none →
    s.ctrl = .opened → s.rxBuf = [] → s.txPhase ≠ .waitEcho →
    (∀ k, k < (frameOfMessage m).length →
      steps k { s with inputs := rxWords (frameOfMessage m) ++ tail } = .next { s with
        inputs := rxWords ((frameOfMessage m).drop k) ++ tail
        rxBuf := (frameOfMessage m).take k }) ∧
    steps (frameOfMessage m).length { s with inputs := rxWords (frameOfMessage m) ++ tail } = .next { s with
      inputs := tail
      trace := s.trace ++ [.frameOut (frameOfMessage m)] }

/-- 42_decoder.md R87, with the premise its derivation uses (no byte of the first frame after its opcode has bit 7
set; log entry 17): a valid frame with one byte after the opcode changed to another data byte, not the length byte of
a variable-class frame, then a valid frame: only the second is put out, and every byte of the first is counted. -/
def Obligations.ResynchronisesAfterOneCorruptByte : Prop :=
  ∀ (a b : Frame) (i : Nat) (x : Byte) (s : State) (tail : List Input),
    isFrame a = true → isFrame b = true → (∀ y ∈ a.drop 1, isOpcode y = false) →
    1 ≤ i → i < a.length → isOpcode x = false → a[i]? ≠ some x →
    (lengthClass (a.headD 0) = .var → i ≠ 1) →
    s.ctrl = .opened → s.rxBuf = [] → s.txPhase ≠ .waitEcho →
    steps (a.length + b.length) { s with inputs := rxWords (a.set i x ++ b) ++ tail } = .next { s with
      inputs := tail
      dropCount := s.dropCount + BitVec.ofNat 32 a.length
      trace := s.trace ++ [.frameOut b] }

/-! ### The transmit sequencer and the echo comparator -/

/-- 43_echo_collision.md R89 and R90: a valid request to an idle open block writes the frame once and arms the
comparator, all in one step; nothing else changes. -/
def Obligations.RequestStartsSend : Prop :=
  ∀ (m : Message) (s : State), s.ctrl = .opened → s.txPhase = .idle → messageError m = none →
    exec (.txReq m) s = .next { s with
      curFrame := some (frameOfMessage m)
      attempt := 1
      lastFail := none
      pending := some (frameOfMessage m)
      txPhase := .waitEcho
      trace := s.trace ++ [.wireTx (frameOfMessage m)] }

/-- A request is answered at once, and nothing but the trace changes: `Closed` when the block is closed, whatever the
message; else, when idle, `InvalidOpcode` when bit 7 of the opcode is clear, whatever the lengths; else `InvalidLength`
when the length does not fit (43_echo_collision.md R89, 60_exceptions.md R112 item 1). -/
def Obligations.RequestErrorsInOrder : Prop :=
  ∀ (m : Message) (s : State),
    (s.ctrl = .closed → exec (.txReq m) s = .next { s with trace := s.trace ++ [.txDone .closed] }) ∧
    (s.ctrl = .opened → s.txPhase = .idle → m.op.toNat < 0x80 →
      exec (.txReq m) s = .next { s with trace := s.trace ++ [.txDone .invalidOpcode] }) ∧
    (s.ctrl = .opened → s.txPhase = .idle → 0x80 ≤ m.op.toNat → payloadNeed m ≠ some m.payload.length →
      exec (.txReq m) s = .next { s with trace := s.trace ++ [.txDone .invalidLength] })

/-- 43_echo_collision.md R88: while a send is in progress a request has no step. Requests at the front of the
environment's events let the next other event pass, and when nothing else is there the machine stays as it is (how the
model keeps a held request is its own choice, log entry 2). -/
def Obligations.RequestsAreHeldWhileBusy : Prop :=
  ∀ (s : State) (held rest : List Input), s.ctrl = .opened → s.txPhase ≠ .idle →
    (∀ inp ∈ held, ∃ m c, inp = .event 0x200 m c) →
    step { s with inputs := held } = .next { s with inputs := held } ∧
    (∀ (w : EventWord) (m : Message) (c : Config), w ≠ 0x200 →
      step { s with inputs := held ++ .event w m c :: rest } =
        exec (decodeEvent w m c) { s with inputs := held ++ rest }) ∧
    (∀ m, exec (.txReq m) s = .next { s with inputs := .event 0x200 m emptyConfig :: s.inputs })

/-- 43_echo_collision.md R90: TX_ISSUE counts the attempt, writes the current frame, and arms the comparator with the
same bytes, in one step; nothing else changes. -/
def Obligations.IssueWritesAndArms : Prop :=
  ∀ (s : State) (f : Frame), s.curFrame = some f →
    exec .txIssue s = .next { s with
      attempt := s.attempt + 1
      trace := s.trace ++ [.wireTx f]
      pending := some f
      txPhase := .waitEcho }

/-- 43_echo_collision.md R91: DISPATCH of one frame, in each of its cases, completes and changes only what the rule
says. -/
def Obligations.DispatchDecidesOneFrame : Prop :=
  ∀ (f : Frame) (s : State),
    (s.txPhase ≠ .waitEcho → exec (.dispatch f) s = .next { s with trace := s.trace ++ [.frameOut f] }) ∧
    (s.txPhase = .waitEcho → s.pending = some f →
      exec (.dispatch f) s = .next { s with
        pending := none, curFrame := none, attempt := 0, lastFail := none, txPhase := .idle
        trace := s.trace ++ [.txDone .ok] }) ∧
    (s.txPhase = .waitEcho → s.pending ≠ some f →
      exec (.dispatch f) s = exec (.failAttempt .collision) { s with trace := s.trace ++ [.frameOut f] })

/-- 43_echo_collision.md R92: FAIL_ATTEMPT with an attempt left goes to BACKOFF and reports nothing; on the last
attempt it ends the send and reports by the kind of this failure; nothing else changes. -/
def Obligations.FailedAttemptRetriesOrReports : Prop :=
  ∀ (kind : FailKind) (s : State) (c : Config), s.cfg = some c →
    (s.attempt.toNat < c.maxAttempts.toNat →
      exec (.failAttempt kind) s = .next { s with
        pending := none, lastFail := some kind, txPhase := .backoff }) ∧
    (c.maxAttempts.toNat ≤ s.attempt.toNat →
      exec (.failAttempt kind) s = .next { s with
        pending := none, curFrame := none, attempt := 0, lastFail := none, txPhase := .idle
        trace := s.trace ++
          [.txDone (match kind with | .collision => .transmitCollision | .timeout => .transmitTimeout)] })

/-- 43_echo_collision.md R93: in WAIT_ECHO the timeout fails the attempt (retry, or TransmitTimeout on the last);
otherwise, and when closed, it changes nothing. Its word is 0x400. -/
def Obligations.EchoTimeoutFailsAttempt : Prop :=
  (∀ m c, decodeInput (.event 0x400 m c) = (.echoTimeout, [])) ∧
  ∀ s : State,
    (∀ c, s.ctrl = .opened → s.txPhase = .waitEcho → s.cfg = some c →
      s.attempt.toNat < c.maxAttempts.toNat →
      exec .echoTimeout s = .next { s with pending := none, lastFail := some .timeout, txPhase := .backoff }) ∧
    (∀ c, s.ctrl = .opened → s.txPhase = .waitEcho → s.cfg = some c →
      c.maxAttempts.toNat ≤ s.attempt.toNat →
      exec .echoTimeout s = .next { s with
        pending := none, curFrame := none, attempt := 0, lastFail := none, txPhase := .idle
        trace := s.trace ++ [.txDone .transmitTimeout] }) ∧
    (s.ctrl = .closed ∨ s.txPhase ≠ .waitEcho → exec .echoTimeout s = .next s)

/-- 43_echo_collision.md R94: in BACKOFF the end of the delay writes the same frame again as the next attempt;
otherwise, and when closed, it changes nothing. Its word is 0x500. -/
def Obligations.BackoffDoneRetries : Prop :=
  (∀ m c, decodeInput (.event 0x500 m c) = (.backoffDone, [])) ∧
  ∀ s : State,
    (∀ f, s.ctrl = .opened → s.txPhase = .backoff → s.curFrame = some f →
      exec .backoffDone s = .next { s with
        attempt := s.attempt + 1
        trace := s.trace ++ [.wireTx f]
        pending := some f
        txPhase := .waitEcho }) ∧
    (s.ctrl = .closed ∨ s.txPhase ≠ .backoff → exec .backoffDone s = .next s)

/-- 43_echo_collision.md R96: a send in progress is cancelled in WAIT_ECHO and in BACKOFF, its registers are cleared
and it reports `Cancelled`; otherwise nothing changes. Its word is 0x300. -/
def Obligations.CancelEndsSend : Prop :=
  (∀ m c, decodeInput (.event 0x300 m c) = (.txCancel, [])) ∧
  ∀ s : State,
    (s.ctrl = .opened → s.txPhase ≠ .idle →
      exec .txCancel s = .next { s with
        pending := none, curFrame := none, attempt := 0, lastFail := none, txPhase := .idle
        trace := s.trace ++ [.txDone .cancelled] }) ∧
    (s.ctrl = .closed ∨ s.txPhase = .idle → exec .txCancel s = .next s)

/-- After a cancelled send its echo, if it comes, is inbound traffic: no stale comparison suppresses it
(43_echo_collision.md R96, 70_reset_and_hazards.md R126). -/
def Obligations.CancelledEchoIsInbound : Prop :=
  ∀ (s : State) (f : Frame) (tail : List Input), Inv s → s.ctrl = .opened → s.rxBuf = [] →
    s.curFrame = some f →
    steps (1 + f.length) { s with inputs := plainEvent 3 0 :: (rxWords f ++ tail) } = .next { s with
      pending := none, curFrame := none, attempt := 0, lastFail := none, txPhase := .idle
      inputs := tail
      trace := s.trace ++ [.txDone .cancelled, .frameOut f] }

/-- The late echo of a timed-out attempt (43_echo_collision.md R97): during the backoff it is inbound traffic; during
the next attempt it confirms that attempt and is not put out. -/
def Obligations.LateEchoMeetsBackoffOrNextAttempt : Prop :=
  ∀ (s : State) (c : Config) (f : Frame) (tail : List Input), Inv s → s.txPhase = .waitEcho → s.rxBuf = [] →
    s.cfg = some c → s.attempt.toNat < c.maxAttempts.toNat → s.pending = some f →
    steps (1 + f.length) { s with inputs := plainEvent 4 0 :: (rxWords f ++ tail) } = .next { s with
      pending := none, lastFail := some .timeout, txPhase := .backoff
      inputs := tail
      trace := s.trace ++ [.frameOut f] } ∧
    steps (2 + f.length) { s with inputs := plainEvent 4 0 :: plainEvent 5 0 :: (rxWords f ++ tail) } =
      .next { s with
        pending := none, curFrame := none, attempt := 0, lastFail := none, txPhase := .idle
        inputs := tail
        trace := s.trace ++ [.wireTx f, .txDone .ok] }

/-- 43_echo_collision.md R98 as a run: an idle block with an empty buffer sends m, the bus returns exactly ENCODE(m):
one write, one `OK`, no FRAME_OUT, and the block is as before. -/
def Obligations.EchoIsSuppressed : Prop :=
  ∀ (m : Message) (s : State) (tail : List Input), Inv s → s.ctrl = .opened → s.txPhase = .idle → s.rxBuf = [] →
    messageError m = none →
    steps (1 + (frameOfMessage m).length)
      { s with inputs := .event 0x200 m emptyConfig :: (rxWords (frameOfMessage m) ++ tail) } = .next { s with
        inputs := tail
        trace := s.trace ++ [.wireTx (frameOfMessage m), .txDone .ok] }

/-- A send whose every attempt fails, each by another device's frame or by a timeout, with a backoff between each two:
exactly maxAttempts writes of the same frame, every foreign frame put out, one report, decided by the kind of the last
failure; then the block is as before (43_echo_collision.md R92, R99). -/
def Obligations.SendFailsAfterMaxAttempts : Prop :=
  ∀ (m : Message) (s : State) (c : Config) (fails : List FailedAttempt) (tail : List Input),
    Inv s → s.ctrl = .opened → s.txPhase = .idle → s.rxBuf = [] → s.cfg = some c → messageError m = none →
    fails.length = c.maxAttempts.toNat →
    (∀ f, some f ∈ fails → isFrame f = true ∧ f ≠ frameOfMessage m) →
    steps (1 + (failedSendInputs fails).length)
      { s with inputs := .event 0x200 m emptyConfig :: (failedSendInputs fails ++ tail) } = .next { s with
        inputs := tail
        trace := s.trace ++ failedSendOutputs (frameOfMessage m) fails } ∧
    ((failedSendOutputs (frameOfMessage m) fails).countP Output.isWireTx = c.maxAttempts.toNat) ∧
    ((failedSendOutputs (frameOfMessage m) fails).countP Output.isTxDone = 1)

/-- 43_echo_collision.md R95: in a run in which WAIT_ECHO and BACKOFF are always left, every send in progress ends,
with exactly one TX_DONE, and the writes it makes never exceed maxAttempts. -/
def Obligations.FairSendsEnd : Prop :=
  ∀ (r : Nat → State), IsRun r → FairRun r → Inv (r 0) →
    ∀ (k : Nat) (c : Config), (r k).txPhase ≠ .idle → (r k).cfg = some c →
      ∃ j seg, k < j ∧ (∀ i, k ≤ i → i < j → (r i).txPhase ≠ .idle) ∧ (r j).txPhase = .idle ∧
        (r j).trace = (r k).trace ++ seg ∧ seg.countP Output.isTxDone = 1 ∧
        (r k).attempt.toNat + seg.countP Output.isWireTx ≤ c.maxAttempts.toNat

/-! ### Sessions -/

/-- 44_control.md R101 and 70_reset_and_hazards.md R121: OPEN of a closed block completes, with the configuration's
validity (the open parameter, log entry 8) deciding between a reset, open block and an unchanged, closed one; the
trace is kept. Its word is 0x600. -/
def Obligations.OpenResetsOrRejects : Prop :=
  (∀ m c, decodeInput (.event 0x600 m c) = (.openBlock c, [])) ∧
  ∀ (c : Config) (s : State), s.ctrl = .closed →
    exec (.openBlock c) s = .next
      (if configValid c = true then
        { s with
          ctrl := .opened, cfg := some c, rxBuf := [], dropCount := 0, txPhase := .idle, pending := none
          curFrame := none, attempt := 0, lastFail := none
          trace := s.trace ++ [.openDone .ok] }
      else { s with trace := s.trace ++ [.openDone .configError] })

/-- 00_scope.md R4 and R3, read backwards: a configuration with no attempt, with an echo timeout of 0, or whose backoff
schedule does not strictly increase, is not valid whatever the open parameter says, and OPEN reports `ConfigError` and
changes nothing else. (That a record outside R3's fields is answered so is the model's choice, log entry 9.) -/
def Obligations.OpenRejectsUnusableConfig : Prop :=
  ∀ (c : Config) (s : State), s.ctrl = .closed →
    (c.maxAttempts.toNat = 0 ∨ c.echoTimeout = 0 ∨
      ∃ j k x y, j < k ∧ backoffDelay c j = some x ∧ backoffDelay c k = some y ∧ y ≤ x) →
    exec (.openBlock c) s = .next { s with trace := s.trace ++ [.openDone .configError] }

/-- 44_control.md R104: OPEN while the block is open is refused. -/
def Obligations.OpenWhileOpenIsRefused : Prop :=
  ∀ (c : Config) (s : State), s.ctrl = .opened → exec (.openBlock c) s = .refused .openWhileOpen

/-- 44_control.md R102: CLOSE of an open block reports `Closed` for the send in progress, if any, then ends the
stream, and clears every element but `dropCount`; a closed block is left as it is. Its word is 0x700. -/
def Obligations.CloseEndsSession : Prop :=
  (∀ m c, decodeInput (.event 0x700 m c) = (.closeBlock, [])) ∧
  ∀ s : State,
    (s.ctrl = .closed → exec .closeBlock s = .next s) ∧
    (s.ctrl = .opened →
      exec .closeBlock s = .next { s with
        ctrl := .closed, cfg := none, rxBuf := [], txPhase := .idle, pending := none, curFrame := none
        attempt := 0, lastFail := none
        trace := s.trace ++ (if s.txPhase = .idle then [.streamEnd] else [.txDone .closed, .streamEnd]) })

/-- 44_control.md R103: a transport failure of an open block reports `TransportError` for the send in progress, if
any, then ends the stream, and clears every element but `dropCount`; a closed block is left as it is. Its word is
0x800. -/
def Obligations.TransportFailureEndsSession : Prop :=
  (∀ m c, decodeInput (.event 0x800 m c) = (.transportErr, [])) ∧
  ∀ s : State,
    (s.ctrl = .closed → exec .transportErr s = .next s) ∧
    (s.ctrl = .opened →
      exec .transportErr s = .next { s with
        ctrl := .closed, cfg := none, rxBuf := [], txPhase := .idle, pending := none, curFrame := none
        attempt := 0, lastFail := none
        trace := s.trace ++ (if s.txPhase = .idle then [.streamEnd] else [.txDone .transportError, .streamEnd]) })

/-- 44_control.md R105: what each event does while the block is closed. -/
def Obligations.ClosedBlockEvents : Prop :=
  ∀ s : State, s.ctrl = .closed →
    (∀ b, exec (.rxByte b) s = .next s) ∧
    (∀ m, exec (.txReq m) s = .next { s with trace := s.trace ++ [.txDone .closed] }) ∧
    exec .txCancel s = .next s ∧
    exec .echoTimeout s = .next s ∧
    exec .backoffDone s = .next s ∧
    (∀ c, ∃ t, exec (.openBlock c) s = .next t ∧
      ((t.ctrl = .opened ∧ t.cfg = some c ∧ t.trace = s.trace ++ [.openDone .ok]) ∨
        t = { s with trace := s.trace ++ [.openDone .configError] })) ∧
    exec .closeBlock s = .next s ∧
    exec .transportErr s = .next s ∧
    (∀ w, exec (.reservedEvent w) s = .refused .reservedWord)

/-- 70_reset_and_hazards.md R120: the state at power-on, element by element. -/
def Obligations.PowerOnState : Prop :=
  State.reset.ctrl = .closed ∧ State.reset.cfg = none ∧ State.reset.rxBuf = [] ∧ State.reset.dropCount = 0 ∧
  State.reset.txPhase = .idle ∧ State.reset.pending = none ∧ State.reset.curFrame = none ∧
  State.reset.attempt = 0 ∧ State.reset.lastFail = none ∧ State.reset.trace = []

/-! ### The whole machine -/

/-- The power-on state meets the invariants of 10_state.md R26. -/
def Obligations.PowerOnMeetsInvariant : Prop := Inv State.reset

/-- 10_state.md R26: every step keeps the invariants, from every state that meets them. -/
def Obligations.StepKeepsInvariant : Prop :=
  ∀ s t : State, Inv s → step s = .next t → Inv t

/-- 60_exceptions.md R119: from a state that meets the invariants a step never faults, and it is refused only for a
reserved event word and for OPEN while open. -/
def Obligations.StepStopsOnlyAsTheSpecSays : Prop :=
  ∀ s : State, Inv s →
    (∃ t, step s = .next t) ∨
    (∃ w t, fetch s = some (.reservedEvent w, t) ∧ reservedWord w = true ∧ step s = .refused .reservedWord) ∨
    (∃ c t, fetch s = some (.openBlock c, t) ∧ s.ctrl = .opened ∧ step s = .refused .openWhileOpen)

/-- A step runs the instruction that the first event that may be taken decodes to, on the state without that event's
words; what is left of a burst, and the requests held before it, stay in their places. With no event that may be taken
it changes nothing. The coming events as a list of which the first enabled one is taken, the place of held requests,
and the step without an event are the model's choices (log entries 1, 2 and 3). -/
def Obligations.StepRunsDecodedInput : Prop :=
  (∀ (s : State) (held rest : List Input) (inp : Input), s.inputs = held ++ inp :: rest →
    (∀ x ∈ held, inputEnabled s x = false) → inputEnabled s inp = true →
    step s = exec (decodeInput inp).1 { s with inputs := held ++ (decodeInput inp).2 ++ rest }) ∧
  (∀ s : State, (∀ x ∈ s.inputs, inputEnabled s x = false) → step s = .next s)

/-- The flags and the status port as functions of the state (10_state.md R27, 30_encoding.md R63), and what the
invariants say of them: the comparator is armed exactly in WAIT_ECHO, an armed comparator makes the block busy, a busy
block is open and has a current frame, and a busy block with the comparator not armed is in BACKOFF. -/
def Obligations.StatusPortShowsState : Prop :=
  ∀ s : State,
    (s.statusPort.busy = true ↔ s.txPhase ≠ .idle) ∧
    (s.statusPort.echoArmed = true ↔ s.pending ≠ none) ∧
    (s.statusPort.isOpen = true ↔ s.ctrl = .opened) ∧
    s.statusPort.dropCount = s.dropCount ∧
    (Inv s →
      (s.statusPort.echoArmed = true ↔ s.txPhase = .waitEcho) ∧
      (s.statusPort.echoArmed = true → s.statusPort.busy = true) ∧
      (s.statusPort.busy = true → s.statusPort.isOpen = true ∧ s.curFrame ≠ none) ∧
      (s.statusPort.busy = true → s.statusPort.echoArmed = false → s.txPhase = .backoff))

/-- The status codes of 60_exceptions.md R106: the ten names have the codes 0x0 to 0x9, in the table's order. -/
def Obligations.StatusCodesAsInTheTable : Prop :=
  [Status.ok, .invalidOpcode, .invalidLength, .checksumMismatch, .transmitCollision, .transmitTimeout,
    .transportError, .closed, .cancelled, .configError].map Status.code =
    [0x0, 0x1, 0x2, 0x3, 0x4, 0x5, 0x6, 0x7, 0x8, 0x9]

/-- No instruction takes an output back: the trace only grows (10_state.md R31), a send never reports
`ChecksumMismatch` or `ConfigError`, and an OPEN reports `OK` or `ConfigError` only (60_exceptions.md R106). -/
def Obligations.TraceGrowsWithProperStatuses : Prop :=
  ∀ (i : Instr) (s t : State), exec i s = .next t →
    ∃ seg, t.trace = s.trace ++ seg ∧
      .txDone .checksumMismatch ∉ seg ∧ .txDone .configError ∉ seg ∧
      ∀ st, .openDone st ∈ seg → st = .ok ∨ st = .configError

/-- 60_exceptions.md R109: an event reports at most once, and a report leaves the block idle, ready for the next
request (or closed). -/
def Obligations.EventReportsAtMostOnce : Prop :=
  ∀ (i : Instr) (s t : State), i.isInternal = false → exec i s = .next t →
    ∃ seg, t.trace = s.trace ++ seg ∧ seg.countP Output.isTxDone ≤ 1 ∧
      (seg.countP Output.isTxDone = 1 → s.ctrl = .opened → t.txPhase = .idle)

/-- Only a request and the end of a backoff write the wire, one frame a step, and the comparator is armed with that
frame in the same step (43_echo_collision.md R90, 60_exceptions.md R114, 70_reset_and_hazards.md R125). -/
def Obligations.OnlyIssueWritesTheWire : Prop :=
  ∀ (i : Instr) (s t : State) (f : Frame), i.isInternal = false → exec i s = .next t →
    ∃ seg, t.trace = s.trace ++ seg ∧
      (.wireTx f ∈ seg →
        ((∃ m, i = .txReq m ∧ f = frameOfMessage m) ∨ (i = .backoffDone ∧ s.curFrame = some f)) ∧
        seg = [.wireTx f] ∧ t.pending = some f ∧ t.curFrame = some f ∧ t.txPhase = .waitEcho)

/-- 10_state.md R20: the configuration never changes while the block stays open, whatever instruction runs. -/
def Obligations.ConfigFixedWhileOpen : Prop :=
  ∀ (i : Instr) (s t : State), exec i s = .next t → s.ctrl = .opened → t.ctrl = .opened → t.cfg = s.cfg

/-- Only the decoder and OPEN write `dropCount`, and only they and the ends of a session write `rxBuf`
(10_state.md R17, R19, R29): every other instruction leaves both. -/
def Obligations.OnlyTheDecoderCounts : Prop :=
  ∀ (i : Instr) (s t : State), exec i s = .next t →
    (match i with
     | .txReq _ | .txCancel | .echoTimeout | .backoffDone | .cksGen _ | .cksChk _ | .msgBuild _ | .encodeMsg _
     | .frameMsg _ | .dWait | .txIssue | .dispatch _ | .failAttempt _ =>
       t.dropCount = s.dropCount ∧ t.rxBuf = s.rxBuf
     | .closeBlock | .transportErr => t.dropCount = s.dropCount
     | .frameC2 _ _ | .frameC4 _ _ _ _ | .frameC6 _ _ _ _ _ _ | .frameVar _ _ _ | .dataByte _ | .rxByte _
     | .openBlock _ | .reservedEvent _ | .decodeLoop | .dNoise | .dAccept _ | .dResync | .dBadLen => True)

/-- The block never reads its trace (10_state.md R31): with any outputs put before it, every instruction answers the
same, with the same outputs before it. -/
def Obligations.TraceIsNeverRead : Prop :=
  ∀ (i : Instr) (s : State) (earlier : List Output),
    exec i { s with trace := earlier ++ s.trace } =
      andThen (exec i s) fun t => .next { t with trace := earlier ++ t.trace }
end

