-- ==== Sys2Proof/Laws/Bytes.lean ====
section
/-! SUPPORT. Small facts about bytes, checksums, length classes and frames. -/

namespace Sys2Proof.Machine

@[simp] theorem xorBytes_nil : xorBytes [] = 0 := rfl
@[simp] theorem xorBytes_cons (b : Byte) (l : List Byte) : xorBytes (b :: l) = b ^^^ xorBytes l := rfl

theorem xorBytes_append (l l' : List Byte) : xorBytes (l ++ l') = xorBytes l ^^^ xorBytes l' := by
  induction l with
  | nil => simp
  | cons b l ih => simp [ih, BitVec.xor_assoc]

theorem foldl_xor (l : List Byte) (a : Byte) : l.foldl (· ^^^ ·) a = a ^^^ xorBytes l := by
  induction l generalizing a with
  | nil => simp
  | cons b l ih => simp [ih, BitVec.xor_assoc]

theorem checksumOk_iff (f : Frame) : checksumOk f = true ↔ xorBytes f = 0xFF := by
  simp [checksumOk]

theorem isOpcode_iff (b : Byte) : isOpcode b = true ↔ 0x80 ≤ b.toNat := by
  revert b; decide

/-- The length classes by opcode range (30_encoding.md R52-R54). -/
theorem lengthClass_of_range (op : Byte) (h : isOpcode op = true) :
    lengthClass op = if op.toNat < 0xA0 then .c2 else if op.toNat < 0xC0 then .c4
      else if op.toNat < 0xE0 then .c6 else .var := by
  revert op; decide

theorem legalLen_iff (len : Byte) : legalLen len = true ↔ 3 ≤ len.toNat ∧ len.toNat ≤ 127 := by
  simp [legalLen]

/-- An expected length is between 2 and 127 bytes (30_encoding.md R54, R55). -/
theorem expLen_range (l : List Byte) (n : Nat) (h : expLen l = .len n) : 2 ≤ n ∧ n ≤ 127 := by
  unfold expLen at h
  split at h
  · simp at h
  · split at h
    · simp at h; omega
    · simp at h; omega
    · simp at h; omega
    · split at h
      · simp at h
      · split at h
        · rename_i hl
          rw [legalLen_iff] at hl
          simp at h; omega
        · simp at h

/-- A nonempty list whose length is not yet known is a variable-class opcode alone (30_encoding.md R55). -/
theorem expLen_needMore (op : Byte) (rest : List Byte) (h : expLen (op :: rest) = .needMore) :
    rest = [] ∧ lengthClass op = .var := by
  unfold expLen at h
  split at h
  · simp_all
  · rename_i heq
    simp only [List.cons.injEq] at heq
    obtain ⟨rfl, rfl⟩ := heq
    split at h
    · simp at h
    · simp at h
    · simp at h
    · split at h
      · exact ⟨rfl, ‹_›⟩
      · split at h <;> simp at h

/-- What the head says of the length depends on the first two bytes only (30_encoding.md R57). -/
theorem expLen_append (l l' : List Byte) (n : Nat) (h : expLen l = .len n) : expLen (l ++ l') = .len n := by
  match l with
  | [] => simp [expLen] at h
  | [op] =>
    simp only [expLen, List.singleton_append] at h ⊢
    cases hc : lengthClass op <;> simp_all
  | op :: len :: rest => simpa [expLen] using h

theorem isFrame_iff (f : Frame) :
    isFrame f = true ↔ isOpcode (f.headD 0) = true ∧ expLen f = .len f.length ∧ xorBytes f = 0xFF := by
  simp [isFrame, checksumOk, and_assoc]

/-- A frame has 2 to 127 bytes. -/
theorem isFrame_length (f : Frame) (h : isFrame f = true) : 2 ≤ f.length ∧ f.length ≤ 127 :=
  expLen_range f _ ((isFrame_iff f).1 h).2.1

end Sys2Proof.Machine
end

