-- ==== Sys2Proof/Laws/Decoder.lean ====
section
/-! SUPPORT. What one pass of the decoder can do, and that the loop has passes enough. -/

namespace Sys2Proof.Machine

/-- The buffers each micro-step is for: the Operands lines of 42_decoder.md R79-R83. -/
theorem microStep_cases (buf : List Byte) :
    (microStep buf = .wait ∧ buf = []) ∨
    ∃ op rest, buf = op :: rest ∧
      ((microStep buf = .noise ∧ isOpcode op = false) ∨
       (isOpcode op = true ∧
        ((microStep buf = .wait ∧ expLen buf = .needMore) ∨
         (microStep buf = .badLen ∧ expLen buf = .badLen) ∨
         ∃ n, expLen buf = .len n ∧
          ((microStep buf = .wait ∧ buf.length < n) ∨
           (microStep buf = .accept n ∧ n ≤ buf.length ∧ checksumOk (buf.take n) = true) ∨
           (microStep buf = .resync ∧ n ≤ buf.length ∧ checksumOk (buf.take n) = false))))) := by
  match buf with
  | [] => exact .inl ⟨rfl, rfl⟩
  | op :: rest =>
    refine .inr ⟨op, rest, rfl, ?_⟩
    cases hop : isOpcode op with
    | false => exact .inl ⟨by simp [microStep, hop], rfl⟩
    | true =>
      refine .inr ⟨rfl, ?_⟩
      cases he : expLen (op :: rest) with
      | needMore => exact .inl ⟨by simp only [microStep, hop, he, if_true], rfl⟩
      | badLen => exact .inr (.inl ⟨by simp only [microStep, hop, he, if_true], rfl⟩)
      | len n =>
        refine .inr (.inr ⟨n, rfl, ?_⟩)
        by_cases hl : (op :: rest).length < n
        · exact .inl ⟨by simp only [microStep, hop, he, hl, if_true], hl⟩
        · have hn : n ≤ (op :: rest).length := by omega
          cases hc : checksumOk ((op :: rest).take n) with
          | true => exact .inr (.inl ⟨by simp only [microStep, hop, he, hl, hc, if_true, if_false], hn, rfl⟩)
          | false =>
            exact .inr (.inr ⟨by simp only [microStep, hop, he, hl, hc, if_true, if_false, Bool.false_eq_true],
              hn, rfl⟩)

@[simp] theorem Decoder.noise_eq (d : Decoder) : d.noise = d.dropOne := rfl
@[simp] theorem Decoder.resync_eq (d : Decoder) : d.resync = d.dropOne := rfl
@[simp] theorem Decoder.badLen_eq (d : Decoder) : d.badLen = d.dropOne := rfl
@[simp] theorem Decoder.dropOne_rxBuf (d : Decoder) : d.dropOne.rxBuf = d.rxBuf.drop 1 := rfl
@[simp] theorem Decoder.dropOne_dropCount (d : Decoder) : d.dropOne.dropCount = d.dropCount + 1 := rfl
@[simp] theorem Decoder.dropOne_out (d : Decoder) : d.dropOne.out = d.out := rfl
@[simp] theorem Decoder.accept_rxBuf (d : Decoder) (n : Nat) : (d.accept n).rxBuf = d.rxBuf.drop n := rfl
@[simp] theorem Decoder.accept_dropCount (d : Decoder) (n : Nat) : (d.accept n).dropCount = d.dropCount := rfl
@[simp] theorem Decoder.accept_out (d : Decoder) (n : Nat) : (d.accept n).out = d.out ++ [d.rxBuf.take n] := rfl

/-- One pass that does not return, or none: what `run` does first. -/
inductive Pass (d : Decoder) : Decoder → Prop where
  | drop (h : d.rxBuf ≠ []) (hm : microStep d.rxBuf = .noise ∨ microStep d.rxBuf = .badLen ∨
      microStep d.rxBuf = .resync) : Pass d d.dropOne
  | accept (n : Nat) (hm : microStep d.rxBuf = .accept n) : Pass d (d.accept n)

theorem microStep_accept {buf : List Byte} {n : Nat} (h : microStep buf = .accept n) :
    isOpcode (buf.headD 0) = true ∧ expLen buf = .len n ∧ 2 ≤ n ∧ n ≤ buf.length ∧
      checksumOk (buf.take n) = true := by
  obtain ⟨hm, -⟩ | ⟨op, rest, rfl, ⟨hm, -⟩ | ⟨hop, ⟨hm, -⟩ | ⟨hm, -⟩ | ⟨m, he, ⟨hm, -⟩ | ⟨hm, hl, hc⟩ | ⟨hm, -⟩⟩⟩⟩ :=
    microStep_cases buf <;> rw [hm] at h
  all_goals try contradiction
  cases h
  exact ⟨hop, he, (expLen_range _ _ he).1, hl, hc⟩

theorem microStep_nil : microStep [] = .wait := rfl

/-- A pass removes at least one byte (42_decoder.md R78). -/
theorem Pass.shorter {d e : Decoder} (h : Pass d e) : e.rxBuf.length < d.rxBuf.length := by
  cases h with
  | drop h hm => simp; exact List.length_pos_iff.2 h
  | accept n hm =>
    obtain ⟨-, -, h2, hl, -⟩ := microStep_accept hm
    simp; omega

/-- The loop either returns at once, waiting, or makes one pass and goes on. -/
theorem Decoder.run_succ (k : Nat) (d : Decoder) :
    (microStep d.rxBuf = .wait ∧ d.run (k + 1) = d) ∨ ∃ e, Pass d e ∧ d.run (k + 1) = e.run k := by
  have hne : microStep d.rxBuf ≠ .wait → d.rxBuf ≠ [] := by
    intro h h0; rw [h0] at h; exact h rfl
  cases hm : microStep d.rxBuf with
  | wait => exact .inl ⟨rfl, by simp only [Decoder.run, hm]⟩
  | noise => exact .inr ⟨_, .drop (hne (by simp [hm])) (.inl hm), by simp only [Decoder.run, hm, Decoder.noise]⟩
  | badLen =>
    exact .inr ⟨_, .drop (hne (by simp [hm])) (.inr (.inl hm)), by simp only [Decoder.run, hm, Decoder.badLen]⟩
  | accept n => exact .inr ⟨_, .accept n hm, by simp only [Decoder.run, hm]⟩
  | resync =>
    exact .inr ⟨_, .drop (hne (by simp [hm])) (.inr (.inr hm)), by simp only [Decoder.run, hm, Decoder.resync]⟩

theorem Decoder.run_wait (k : Nat) (d : Decoder) (h : microStep d.rxBuf = .wait) : d.run k = d := by
  cases k with
  | zero => rfl
  | succ k => unfold Decoder.run; rw [h]

/-- With as many passes as bytes, more passes change nothing. -/
theorem Decoder.run_enough (k : Nat) (d : Decoder) (h : d.rxBuf.length ≤ k) :
    d.run k = d.run d.rxBuf.length := by
  induction k using Nat.strong_induction_on generalizing d with
  | _ k ih =>
    match k, hn : d.rxBuf.length with
    | 0, 0 => rfl
    | 0, n + 1 => omega
    | k + 1, 0 =>
      have : d.rxBuf = [] := List.length_eq_zero_iff.1 hn
      rw [Decoder.run_wait _ _ (by rw [this]; rfl), Decoder.run_wait _ _ (by rw [this]; rfl)]
    | k + 1, n + 1 =>
      have hstep : ∀ e, Pass d e → e.run k = e.run n := by
        intro e he
        have := he.shorter
        rw [ih k (by omega) e (by omega)]
        by_cases hkn : k = n
        · rw [← ih k (by omega) e (by omega), hkn]
        · rw [ih n (by omega) e (by omega)]
      rcases Decoder.run_succ k d with ⟨hw, hk⟩ | ⟨e, he, hk⟩
      · rw [hk, Decoder.run_wait _ _ hw]
      · rcases Decoder.run_succ n d with ⟨hw, hn'⟩ | ⟨e', he', hn'⟩
        · rw [Decoder.run_wait _ _ hw, hn']
        · have hee : e = e' := by
            cases he with
            | drop h hm =>
              cases he' with
              | drop _ _ => rfl
              | accept m hm' => rw [hm'] at hm; simp at hm
            | accept m hm =>
              cases he' with
              | drop _ hm' => rw [hm] at hm'; simp at hm'
              | accept m' hm' => rw [hm] at hm'; cases hm'; rfl
          rw [hk, hn', hstep e he, hee]

/-- DECODE returns at once, waiting, or makes one pass and is DECODE again. -/
theorem decodeAll_cases (d : Decoder) :
    (microStep d.rxBuf = .wait ∧ decodeAll d = d) ∨ ∃ e, Pass d e ∧ decodeAll d = decodeAll e := by
  unfold decodeAll
  match hn : d.rxBuf.length with
  | 0 =>
    have : d.rxBuf = [] := List.length_eq_zero_iff.1 hn
    exact .inl ⟨by rw [this]; rfl, rfl⟩
  | n + 1 =>
    rcases Decoder.run_succ n d with h | ⟨e, he, h⟩
    · exact .inl h
    · have := he.shorter
      exact .inr ⟨e, he, by rw [h, Decoder.run_enough n e (by omega)]⟩

/-- What every pass keeps and a waiting decoder has, DECODE's answer has. -/
theorem decodeAll_induction {P : Decoder → Decoder → Prop}
    (wait : ∀ d, microStep d.rxBuf = .wait → P d d)
    (pass : ∀ d e t, Pass d e → P e t → P d t) (d : Decoder) : P d (decodeAll d) := by
  induction hn : d.rxBuf.length using Nat.strong_induction_on generalizing d with
  | _ n ih =>
    rcases decodeAll_cases d with ⟨hw, h⟩ | ⟨e, he, h⟩
    · rw [h]; exact wait d hw
    · rw [h]; exact pass d e _ he (ih _ (hn ▸ he.shorter) e rfl)

/-- When DECODE returns, the decoder waits (42_decoder.md R84). -/
theorem decodeAll_waits (d : Decoder) : microStep (decodeAll d).rxBuf = .wait :=
  decodeAll_induction (P := fun _ t => microStep t.rxBuf = .wait) (fun _ h => h) (fun _ _ _ _ h => h) d

end Sys2Proof.Machine
end

