-- ==== Sys2Proof/Laws/State.lean ====
section
/-! SUPPORT. What each named update of the state does to each field, so that no later proof unfolds a record update. -/

namespace Sys2Proof.Machine

/-! `emit` -/

@[simp] theorem State.emit_ctrl (s : State) (e : Output) : (s.emit e).ctrl = s.ctrl := rfl
@[simp] theorem State.emit_cfg (s : State) (e : Output) : (s.emit e).cfg = s.cfg := rfl
@[simp] theorem State.emit_rxBuf (s : State) (e : Output) : (s.emit e).rxBuf = s.rxBuf := rfl
@[simp] theorem State.emit_dropCount (s : State) (e : Output) : (s.emit e).dropCount = s.dropCount := rfl
@[simp] theorem State.emit_txPhase (s : State) (e : Output) : (s.emit e).txPhase = s.txPhase := rfl
@[simp] theorem State.emit_pending (s : State) (e : Output) : (s.emit e).pending = s.pending := rfl
@[simp] theorem State.emit_curFrame (s : State) (e : Output) : (s.emit e).curFrame = s.curFrame := rfl
@[simp] theorem State.emit_attempt (s : State) (e : Output) : (s.emit e).attempt = s.attempt := rfl
@[simp] theorem State.emit_lastFail (s : State) (e : Output) : (s.emit e).lastFail = s.lastFail := rfl
@[simp] theorem State.emit_trace (s : State) (e : Output) : (s.emit e).trace = s.trace ++ [e] := rfl
@[simp] theorem State.emit_inputs (s : State) (e : Output) : (s.emit e).inputs = s.inputs := rfl
@[simp] theorem State.emit_result (s : State) (e : Output) : (s.emit e).result = s.result := rfl

/-! `report` -/

@[simp] theorem State.report_ctrl (s : State) (st : Status) : (s.report st).ctrl = s.ctrl := rfl
@[simp] theorem State.report_cfg (s : State) (st : Status) : (s.report st).cfg = s.cfg := rfl
@[simp] theorem State.report_rxBuf (s : State) (st : Status) : (s.report st).rxBuf = s.rxBuf := rfl
@[simp] theorem State.report_dropCount (s : State) (st : Status) : (s.report st).dropCount = s.dropCount := rfl
@[simp] theorem State.report_txPhase (s : State) (st : Status) : (s.report st).txPhase = s.txPhase := rfl
@[simp] theorem State.report_pending (s : State) (st : Status) : (s.report st).pending = s.pending := rfl
@[simp] theorem State.report_curFrame (s : State) (st : Status) : (s.report st).curFrame = s.curFrame := rfl
@[simp] theorem State.report_attempt (s : State) (st : Status) : (s.report st).attempt = s.attempt := rfl
@[simp] theorem State.report_lastFail (s : State) (st : Status) : (s.report st).lastFail = s.lastFail := rfl
@[simp] theorem State.report_trace (s : State) (st : Status) : (s.report st).trace = s.trace ++ [.txDone st] := rfl
@[simp] theorem State.report_inputs (s : State) (st : Status) : (s.report st).inputs = s.inputs := rfl
@[simp] theorem State.report_result (s : State) (st : Status) : (s.report st).result = s.result := rfl

/-! `returning` -/

@[simp] theorem State.returning_ctrl (s : State) (r : OpResult) : (s.returning r).ctrl = s.ctrl := rfl
@[simp] theorem State.returning_cfg (s : State) (r : OpResult) : (s.returning r).cfg = s.cfg := rfl
@[simp] theorem State.returning_rxBuf (s : State) (r : OpResult) : (s.returning r).rxBuf = s.rxBuf := rfl
@[simp] theorem State.returning_dropCount (s : State) (r : OpResult) : (s.returning r).dropCount = s.dropCount := rfl
@[simp] theorem State.returning_txPhase (s : State) (r : OpResult) : (s.returning r).txPhase = s.txPhase := rfl
@[simp] theorem State.returning_pending (s : State) (r : OpResult) : (s.returning r).pending = s.pending := rfl
@[simp] theorem State.returning_curFrame (s : State) (r : OpResult) : (s.returning r).curFrame = s.curFrame := rfl
@[simp] theorem State.returning_attempt (s : State) (r : OpResult) : (s.returning r).attempt = s.attempt := rfl
@[simp] theorem State.returning_lastFail (s : State) (r : OpResult) : (s.returning r).lastFail = s.lastFail := rfl
@[simp] theorem State.returning_trace (s : State) (r : OpResult) : (s.returning r).trace = s.trace := rfl
@[simp] theorem State.returning_inputs (s : State) (r : OpResult) : (s.returning r).inputs = s.inputs := rfl
@[simp] theorem State.returning_result (s : State) (r : OpResult) : (s.returning r).result = r := rfl

/-! `withDecoder` -/

@[simp] theorem State.withDecoder_ctrl (s : State) (d : Decoder) : (s.withDecoder d).ctrl = s.ctrl := rfl
@[simp] theorem State.withDecoder_cfg (s : State) (d : Decoder) : (s.withDecoder d).cfg = s.cfg := rfl
@[simp] theorem State.withDecoder_rxBuf (s : State) (d : Decoder) : (s.withDecoder d).rxBuf = d.rxBuf := rfl
@[simp] theorem State.withDecoder_dropCount (s : State) (d : Decoder) : (s.withDecoder d).dropCount = d.dropCount := rfl
@[simp] theorem State.withDecoder_txPhase (s : State) (d : Decoder) : (s.withDecoder d).txPhase = s.txPhase := rfl
@[simp] theorem State.withDecoder_pending (s : State) (d : Decoder) : (s.withDecoder d).pending = s.pending := rfl
@[simp] theorem State.withDecoder_curFrame (s : State) (d : Decoder) : (s.withDecoder d).curFrame = s.curFrame := rfl
@[simp] theorem State.withDecoder_attempt (s : State) (d : Decoder) : (s.withDecoder d).attempt = s.attempt := rfl
@[simp] theorem State.withDecoder_lastFail (s : State) (d : Decoder) : (s.withDecoder d).lastFail = s.lastFail := rfl
@[simp] theorem State.withDecoder_trace (s : State) (d : Decoder) : (s.withDecoder d).trace = s.trace := rfl
@[simp] theorem State.withDecoder_inputs (s : State) (d : Decoder) : (s.withDecoder d).inputs = s.inputs := rfl
@[simp] theorem State.withDecoder_result (s : State) (d : Decoder) : (s.withDecoder d).result = s.result := rfl

/-! `endSend` -/

@[simp] theorem State.endSend_ctrl (s : State) : s.endSend.ctrl = s.ctrl := rfl
@[simp] theorem State.endSend_cfg (s : State) : s.endSend.cfg = s.cfg := rfl
@[simp] theorem State.endSend_rxBuf (s : State) : s.endSend.rxBuf = s.rxBuf := rfl
@[simp] theorem State.endSend_dropCount (s : State) : s.endSend.dropCount = s.dropCount := rfl
@[simp] theorem State.endSend_txPhase (s : State) : s.endSend.txPhase = .idle := rfl
@[simp] theorem State.endSend_pending (s : State) : s.endSend.pending = none := rfl
@[simp] theorem State.endSend_curFrame (s : State) : s.endSend.curFrame = none := rfl
@[simp] theorem State.endSend_attempt (s : State) : s.endSend.attempt = 0 := rfl
@[simp] theorem State.endSend_lastFail (s : State) : s.endSend.lastFail = none := rfl
@[simp] theorem State.endSend_trace (s : State) : s.endSend.trace = s.trace := rfl
@[simp] theorem State.endSend_inputs (s : State) : s.endSend.inputs = s.inputs := rfl
@[simp] theorem State.endSend_result (s : State) : s.endSend.result = s.result := rfl

/-! `holdRequest` -/

@[simp] theorem State.holdRequest_ctrl (s : State) (m : Message) : (s.holdRequest m).ctrl = s.ctrl := rfl
@[simp] theorem State.holdRequest_cfg (s : State) (m : Message) : (s.holdRequest m).cfg = s.cfg := rfl
@[simp] theorem State.holdRequest_rxBuf (s : State) (m : Message) : (s.holdRequest m).rxBuf = s.rxBuf := rfl
@[simp] theorem State.holdRequest_dropCount (s : State) (m : Message) : (s.holdRequest m).dropCount = s.dropCount := rfl
@[simp] theorem State.holdRequest_txPhase (s : State) (m : Message) : (s.holdRequest m).txPhase = s.txPhase := rfl
@[simp] theorem State.holdRequest_pending (s : State) (m : Message) : (s.holdRequest m).pending = s.pending := rfl
@[simp] theorem State.holdRequest_curFrame (s : State) (m : Message) : (s.holdRequest m).curFrame = s.curFrame := rfl
@[simp] theorem State.holdRequest_attempt (s : State) (m : Message) : (s.holdRequest m).attempt = s.attempt := rfl
@[simp] theorem State.holdRequest_lastFail (s : State) (m : Message) : (s.holdRequest m).lastFail = s.lastFail := rfl
@[simp] theorem State.holdRequest_trace (s : State) (m : Message) : (s.holdRequest m).trace = s.trace := rfl
@[simp] theorem State.holdRequest_inputs (s : State) (m : Message) : (s.holdRequest m).inputs = .event (eventWord 2 0) m emptyConfig :: s.inputs := rfl
@[simp] theorem State.holdRequest_result (s : State) (m : Message) : (s.holdRequest m).result = s.result := rfl

/-! `openWith` -/

@[simp] theorem State.openWith_ctrl (s : State) (c : Config) : (s.openWith c).ctrl = .opened := rfl
@[simp] theorem State.openWith_cfg (s : State) (c : Config) : (s.openWith c).cfg = some c := rfl
@[simp] theorem State.openWith_rxBuf (s : State) (c : Config) : (s.openWith c).rxBuf = [] := rfl
@[simp] theorem State.openWith_dropCount (s : State) (c : Config) : (s.openWith c).dropCount = 0 := rfl
@[simp] theorem State.openWith_txPhase (s : State) (c : Config) : (s.openWith c).txPhase = .idle := rfl
@[simp] theorem State.openWith_pending (s : State) (c : Config) : (s.openWith c).pending = none := rfl
@[simp] theorem State.openWith_curFrame (s : State) (c : Config) : (s.openWith c).curFrame = none := rfl
@[simp] theorem State.openWith_attempt (s : State) (c : Config) : (s.openWith c).attempt = 0 := rfl
@[simp] theorem State.openWith_lastFail (s : State) (c : Config) : (s.openWith c).lastFail = none := rfl
@[simp] theorem State.openWith_trace (s : State) (c : Config) : (s.openWith c).trace = s.trace ++ [.openDone .ok] := rfl
@[simp] theorem State.openWith_inputs (s : State) (c : Config) : (s.openWith c).inputs = s.inputs := rfl
@[simp] theorem State.openWith_result (s : State) (c : Config) : (s.openWith c).result = s.result := rfl

/-! `withInput` -/

@[simp] theorem State.withInput_ctrl (s : State) (inp : Input) : (s.withInput inp).ctrl = s.ctrl := rfl
@[simp] theorem State.withInput_cfg (s : State) (inp : Input) : (s.withInput inp).cfg = s.cfg := rfl
@[simp] theorem State.withInput_rxBuf (s : State) (inp : Input) : (s.withInput inp).rxBuf = s.rxBuf := rfl
@[simp] theorem State.withInput_dropCount (s : State) (inp : Input) : (s.withInput inp).dropCount = s.dropCount := rfl
@[simp] theorem State.withInput_txPhase (s : State) (inp : Input) : (s.withInput inp).txPhase = s.txPhase := rfl
@[simp] theorem State.withInput_pending (s : State) (inp : Input) : (s.withInput inp).pending = s.pending := rfl
@[simp] theorem State.withInput_curFrame (s : State) (inp : Input) : (s.withInput inp).curFrame = s.curFrame := rfl
@[simp] theorem State.withInput_attempt (s : State) (inp : Input) : (s.withInput inp).attempt = s.attempt := rfl
@[simp] theorem State.withInput_lastFail (s : State) (inp : Input) : (s.withInput inp).lastFail = s.lastFail := rfl
@[simp] theorem State.withInput_trace (s : State) (inp : Input) : (s.withInput inp).trace = s.trace := rfl
@[simp] theorem State.withInput_inputs (s : State) (inp : Input) : (s.withInput inp).inputs = inp :: s.inputs := rfl
@[simp] theorem State.withInput_result (s : State) (inp : Input) : (s.withInput inp).result = s.result := rfl

/-! `withBytes` -/

@[simp] theorem State.withBytes_ctrl (s : State) (l : List Byte) : (s.withBytes l).ctrl = s.ctrl := rfl
@[simp] theorem State.withBytes_cfg (s : State) (l : List Byte) : (s.withBytes l).cfg = s.cfg := rfl
@[simp] theorem State.withBytes_rxBuf (s : State) (l : List Byte) : (s.withBytes l).rxBuf = s.rxBuf := rfl
@[simp] theorem State.withBytes_dropCount (s : State) (l : List Byte) : (s.withBytes l).dropCount = s.dropCount := rfl
@[simp] theorem State.withBytes_txPhase (s : State) (l : List Byte) : (s.withBytes l).txPhase = s.txPhase := rfl
@[simp] theorem State.withBytes_pending (s : State) (l : List Byte) : (s.withBytes l).pending = s.pending := rfl
@[simp] theorem State.withBytes_curFrame (s : State) (l : List Byte) : (s.withBytes l).curFrame = s.curFrame := rfl
@[simp] theorem State.withBytes_attempt (s : State) (l : List Byte) : (s.withBytes l).attempt = s.attempt := rfl
@[simp] theorem State.withBytes_lastFail (s : State) (l : List Byte) : (s.withBytes l).lastFail = s.lastFail := rfl
@[simp] theorem State.withBytes_trace (s : State) (l : List Byte) : (s.withBytes l).trace = s.trace := rfl
@[simp] theorem State.withBytes_inputs (s : State) (l : List Byte) : (s.withBytes l).inputs = rxWords l ++ s.inputs := rfl
@[simp] theorem State.withBytes_result (s : State) (l : List Byte) : (s.withBytes l).result = s.result := rfl
@[simp] theorem State.withBytes_decoderWith (s : State) (l : List Byte) (b : Byte) :
    (s.withBytes l).decoderWith b = s.decoderWith b := rfl

/-! `shutdown` -/

@[simp] theorem State.shutdown_ctrl (s : State) (st : Status) : (s.shutdown st).ctrl = .closed := rfl
@[simp] theorem State.shutdown_cfg (s : State) (st : Status) : (s.shutdown st).cfg = none := rfl
@[simp] theorem State.shutdown_rxBuf (s : State) (st : Status) : (s.shutdown st).rxBuf = [] := rfl
@[simp] theorem State.shutdown_dropCount (s : State) (st : Status) : (s.shutdown st).dropCount = s.dropCount := by
  unfold State.shutdown; split <;> rfl
@[simp] theorem State.shutdown_txPhase (s : State) (st : Status) : (s.shutdown st).txPhase = .idle := rfl
@[simp] theorem State.shutdown_pending (s : State) (st : Status) : (s.shutdown st).pending = none := rfl
@[simp] theorem State.shutdown_curFrame (s : State) (st : Status) : (s.shutdown st).curFrame = none := rfl
@[simp] theorem State.shutdown_attempt (s : State) (st : Status) : (s.shutdown st).attempt = 0 := rfl
@[simp] theorem State.shutdown_lastFail (s : State) (st : Status) : (s.shutdown st).lastFail = none := rfl
@[simp] theorem State.shutdown_inputs (s : State) (st : Status) : (s.shutdown st).inputs = s.inputs := by
  unfold State.shutdown; split <;> rfl
@[simp] theorem State.shutdown_result (s : State) (st : Status) : (s.shutdown st).result = s.result := by
  unfold State.shutdown; split <;> rfl

@[simp] theorem State.shutdown_trace (s : State) (st : Status) :
    (s.shutdown st).trace = s.trace ++ (if s.busy then [.txDone st, .streamEnd] else [.streamEnd]) := by
  unfold State.shutdown; split <;> simp

/-! What the flags read -/

@[simp] theorem State.busy_eq_true (s : State) : s.busy = true ↔ s.txPhase ≠ .idle := by
  simp [State.busy]

@[simp] theorem State.busy_eq_false (s : State) : s.busy = false ↔ s.txPhase = .idle := by
  simp [State.busy]

@[simp] theorem State.isOpen_eq_true (s : State) : s.isOpen = true ↔ s.ctrl = .opened := by
  simp [State.isOpen]

@[simp] theorem State.isOpen_eq_false (s : State) : s.isOpen = false ↔ s.ctrl = .closed := by
  cases h : s.ctrl <;> simp [State.isOpen, h]

@[simp] theorem State.requestHeld_eq_true (s : State) :
    s.requestHeld = true ↔ s.ctrl = .opened ∧ s.txPhase ≠ .idle := by
  simp [State.requestHeld]

@[simp] theorem State.decoder_rxBuf (s : State) : s.decoder.rxBuf = s.rxBuf := rfl
@[simp] theorem State.decoder_dropCount (s : State) : s.decoder.dropCount = s.dropCount := rfl
@[simp] theorem State.decoder_out (s : State) : s.decoder.out = [] := rfl
@[simp] theorem State.decoderWith_rxBuf (s : State) (b : Byte) : (s.decoderWith b).rxBuf = s.rxBuf ++ [b] := rfl
@[simp] theorem State.decoderWith_dropCount (s : State) (b : Byte) :
    (s.decoderWith b).dropCount = s.dropCount := rfl
@[simp] theorem State.decoderWith_out (s : State) (b : Byte) : (s.decoderWith b).out = [] := rfl

end Sys2Proof.Machine
end

