-- ==== Sys2Proof/Laws/Fetch.lean ====
section
/-! SUPPORT. Which input a step takes. -/

namespace Sys2Proof.Machine

/-- The first of a list's inputs is taken when it is enabled. -/
theorem firstEnabled_head (ok : Input → Bool) (inp : Input) (rest : List Input) (h : ok inp = true) :
    firstEnabled ok (inp :: rest) = some ([], inp, rest) := by
  simp [firstEnabled, h]

/-- Inputs that are not enabled are passed over and kept. -/
theorem firstEnabled_skip (ok : Input → Bool) (held rest : List Input) (h : ∀ inp ∈ held, ok inp = false) :
    firstEnabled ok (held ++ rest) =
      (firstEnabled ok rest).map fun (before, found, after) => (held ++ before, found, after) := by
  induction held with
  | nil => simp
  | cons x held ih =>
    have hx : ok x = false := h x (by simp)
    have := ih (fun y hy => h y (by simp [hy]))
    simp only [List.cons_append, firstEnabled, hx, Bool.false_eq_true, if_false, this, Option.map_map]
    rfl

/-- What is found is enabled and was in the list. -/
theorem firstEnabled_some {ok : Input → Bool} {l before after : List Input} {inp : Input}
    (h : firstEnabled ok l = some (before, inp, after)) :
    ok inp = true ∧ l = before ++ inp :: after ∧ ∀ x ∈ before, ok x = false := by
  induction l generalizing before with
  | nil => simp [firstEnabled] at h
  | cons x l ih =>
    unfold firstEnabled at h
    split at h
    · cases h; exact ⟨‹_›, rfl, by simp⟩
    · rename_i hx
      simp only [Option.map_eq_some_iff] at h
      obtain ⟨⟨b, i, a⟩, hi, heq⟩ := h
      simp only [Prod.mk.injEq] at heq
      obtain ⟨rfl, rfl, rfl⟩ := heq
      obtain ⟨h1, rfl, h3⟩ := ih hi
      refine ⟨h1, rfl, ?_⟩
      intro y hy
      rcases List.mem_cons.1 hy with rfl | hy
      · simpa using hx
      · exact h3 y hy

/-- Only a TX_REQ while a send is in progress is not enabled (43_echo_collision.md R88). -/
theorem inputEnabled_eq_false (s : State) (inp : Input) :
    inputEnabled s inp = false ↔ s.ctrl = .opened ∧ s.txPhase ≠ .idle ∧ ∃ m c, inp = .event (eventWord 2 0) m c := by
  cases inp with
  | event w m c => simp [inputEnabled, State.requestHeld]; tauto
  | wire f r => simp [inputEnabled]

/-- What a step can do: run the decoded input on a state that differs only in its coming inputs, or nothing. -/
theorem step_cases (s : State) :
    (fetch s = none ∧ step s = .next s) ∨
    ∃ before inp after, s.inputs = before ++ inp :: after ∧ inputEnabled s inp = true ∧
      step s = exec (decodeInput inp).1 { s with inputs := before ++ (decodeInput inp).2 ++ after } := by
  unfold step
  cases hf : firstEnabled (inputEnabled s) s.inputs with
  | none => exact .inl ⟨by simp [fetch, hf], by simp [fetch, hf]⟩
  | some x =>
    obtain ⟨before, inp, after⟩ := x
    obtain ⟨h1, h2, -⟩ := firstEnabled_some hf
    exact .inr ⟨before, inp, after, h2, h1, by simp [fetch, hf]⟩

end Sys2Proof.Machine
end

