-- ==== Sys2Proof/Laws/PerInstr.lean ====
section
/-! SUPPORT. Facts about each instruction as syntax. `Encodable`: a row has words exactly when it is not an internal
operation (opcode_table.json, "no event word"). -/

namespace Sys2Proof.Laws.Encodable

def Statement (i : Instr) : Prop := (encode i).isSome = !i.isInternal

theorem frameC2 (op cks : Byte) : Statement (.frameC2 op cks) := rfl
theorem frameC4 (op p0 p1 cks : Byte) : Statement (.frameC4 op p0 p1 cks) := rfl
theorem frameC6 (op p0 p1 p2 p3 cks : Byte) : Statement (.frameC6 op p0 p1 p2 p3 cks) := rfl
theorem frameVar (op len : Byte) (body : List Byte) : Statement (.frameVar op len body) := rfl
theorem dataByte (b : Byte) : Statement (.dataByte b) := rfl
theorem rxByte (b : Byte) : Statement (.rxByte b) := rfl
theorem txReq (m : Message) : Statement (.txReq m) := rfl
theorem txCancel : Statement .txCancel := rfl
theorem echoTimeout : Statement .echoTimeout := rfl
theorem backoffDone : Statement .backoffDone := rfl
theorem openBlock (c : Config) : Statement (.openBlock c) := rfl
theorem closeBlock : Statement .closeBlock := rfl
theorem transportErr : Statement .transportErr := rfl
theorem reservedEvent (word : EventWord) : Statement (.reservedEvent word) := rfl
theorem cksGen (pre : List Byte) : Statement (.cksGen pre) := rfl
theorem cksChk (f : Frame) : Statement (.cksChk f) := rfl
theorem msgBuild (m : Message) : Statement (.msgBuild m) := rfl
theorem encodeMsg (m : Message) : Statement (.encodeMsg m) := rfl
theorem frameMsg (f : Frame) : Statement (.frameMsg f) := rfl
theorem decodeLoop : Statement .decodeLoop := rfl
theorem dNoise : Statement .dNoise := rfl
theorem dWait : Statement .dWait := rfl
theorem dAccept (n : Nat) : Statement (.dAccept n) := rfl
theorem dResync : Statement .dResync := rfl
theorem dBadLen : Statement .dBadLen := rfl
theorem txIssue : Statement .txIssue := rfl
theorem dispatch (f : Frame) : Statement (.dispatch f) := rfl
theorem failAttempt (kind : FailKind) : Statement (.failAttempt kind) := rfl

end Sys2Proof.Laws.Encodable
end

