-- ==== Sys2Proof/Laws/Transmit.lean ====
section
/-! SUPPORT. What each shared operation of the sequencer and the comparator can answer. -/

namespace Sys2Proof.Machine

@[simp] theorem andThen_next (s : State) (k : State → Result) : andThen (.next s) k = k s := rfl
@[simp] theorem andThen_fault (f : Fault) (k : State → Result) : andThen (.fault f) k = .fault f := rfl
@[simp] theorem andThen_refused (r : Refusal) (k : State → Result) : andThen (.refused r) k = .refused r := rfl

theorem andThen_eq_next {o : Result} {k : State → Result} {t : State} (h : andThen o k = .next t) :
    ∃ u, o = .next u ∧ k u = .next t := by
  cases o with
  | next u => exact ⟨u, rfl, h⟩
  | fault f => cases h
  | refused r => cases h

theorem andThen_assoc (o : Result) (k l : State → Result) :
    andThen (andThen o k) l = andThen o (fun u => andThen (k u) l) := by
  cases o <;> rfl

/-- TX_ISSUE answers next only with a current frame, and then counts, writes and arms. -/
theorem txIssue_next {s t : State} (h : txIssue s = .next t) :
    ∃ f, s.curFrame = some f ∧
      t = { s with
        attempt := s.attempt + 1, trace := s.trace ++ [.wireTx f], pending := some f, txPhase := .waitEcho } := by
  unfold txIssue at h
  split at h
  · rename_i f hf
    cases h
    exact ⟨f, hf, rfl⟩
  · cases h

/-- FAIL_ATTEMPT answers next only with a configuration: it retries or it ends the send with a report. -/
theorem failAttempt_next {kind : FailKind} {s t : State} (h : failAttempt kind s = .next t) :
    ∃ c, s.cfg = some c ∧
      ((s.attempt < c.maxAttempts ∧
          t = { s with pending := none, lastFail := some kind, txPhase := .backoff }) ∨
       (¬ s.attempt < c.maxAttempts ∧ t = s.endSend.report (finalStatus kind))) := by
  unfold failAttempt at h
  split at h
  · rename_i c hc
    refine ⟨c, hc, ?_⟩
    split at h <;> cases h
    · exact .inl ⟨‹_›, rfl⟩
    · exact .inr ⟨‹_›, rfl⟩
  · cases h

/-- DISPATCH answers next in one of three ways: forwarded, confirmed, or forwarded and the attempt failed. -/
theorem dispatchFrame_next {f : Frame} {s t : State} (h : dispatchFrame f s = .next t) :
    (s.txPhase ≠ .waitEcho ∧ t = s.emit (.frameOut f)) ∨
    (s.txPhase = .waitEcho ∧ s.pending = some f ∧ t = s.endSend.report .ok) ∨
    (s.txPhase = .waitEcho ∧ s.pending ≠ some f ∧ failAttempt .collision (s.emit (.frameOut f)) = .next t) := by
  unfold dispatchFrame at h
  split at h
  · split at h
    · cases h; exact .inr (.inl ⟨‹_›, ‹_›, rfl⟩)
    · exact .inr (.inr ⟨‹_›, ‹_›, h⟩)
  · cases h; exact .inl ⟨‹_›, rfl⟩

/-- Once no echo is awaited, every frame is forwarded, in order. -/
theorem dispatchAll_forward (fs : List Frame) (s : State) (h : s.txPhase ≠ .waitEcho) :
    dispatchAll fs s = .next { s with trace := s.trace ++ fs.map .frameOut } := by
  induction fs generalizing s with
  | nil => simp [dispatchAll]
  | cons f fs ih =>
    have hf : dispatchFrame f s = .next (s.emit (.frameOut f)) := by simp [dispatchFrame, h]
    simp only [dispatchAll, hf, andThen_next]
    rw [ih (s.emit (.frameOut f)) h]
    simp [State.emit]

end Sys2Proof.Machine
end

