-- ==== Sys2Proof/Laws/Receive.lean ====
section
/-! SUPPORT. What receiving a byte can answer. -/

namespace Sys2Proof.Machine

theorem receiveByte_closed (b : Byte) (s : State) (h : s.ctrl = .closed) : receiveByte b s = .next s := by
  unfold receiveByte; rw [h]

/-- An open block with room appends, decodes and dispatches (42_decoder.md R77). -/
theorem receiveByte_opened (b : Byte) (s : State) (h : s.ctrl = .opened) (hl : s.rxBuf.length ≤ 126) :
    receiveByte b s =
      dispatchAll (decodeAll (s.decoderWith b)).out (s.withDecoder (decodeAll (s.decoderWith b))) := by
  unfold receiveByte; rw [h]
  exact if_neg (by unfold rxCapacity; omega)

/-- A wire row while closed: its first byte is ignored and the others come next. -/
theorem receiveRow_closed (b : Byte) (rest : List Byte) (s : State) (h : s.ctrl = .closed) :
    receiveRow b rest s = .next (s.withBytes rest) :=
  receiveByte_closed b _ h

/-- A wire row of an open block with room: its first byte is appended, decoded and dispatched, and the others come
next (42_decoder.md R77). -/
theorem receiveRow_opened (b : Byte) (rest : List Byte) (s : State) (h : s.ctrl = .opened)
    (hl : s.rxBuf.length ≤ 126) :
    receiveRow b rest s =
      dispatchAll (decodeAll (s.decoderWith b)).out
        ((s.withBytes rest).withDecoder (decodeAll (s.decoderWith b))) :=
  receiveByte_opened b _ h hl

theorem rxWords_append (l l' : List Byte) : rxWords (l ++ l') = rxWords l ++ rxWords l' := List.map_append

@[simp] theorem rxWords_nil : rxWords [] = [] := rfl
@[simp] theorem rxWords_cons (b : Byte) (l : List Byte) : rxWords (b :: l) = plainEvent 1 b.toNat :: rxWords l := rfl
@[simp] theorem rxWords_length (l : List Byte) : (rxWords l).length = l.length := List.length_map ..

/-- The waiting decoder returns the buffer it was given, with nothing counted and nothing put out. -/
theorem decodeAll_of_wait (d : Decoder) (h : microStep d.rxBuf = .wait) : decodeAll d = d :=
  Decoder.run_wait _ d h

end Sys2Proof.Machine
end

