-- ==== Sys2Proof/Tests/Slice0.lean ====
section
/-! SUPPORT. The model's own tests. Expected values are those of spec/95_test_vectors.md (V1-V19) or worked out by hand
from the rule named; none is the model's own answer pasted back. First the well-formedness and decoding tests, then
one-step tests of the meanings, then a witness for the hypotheses of every statement. -/

namespace Sys2Proof.Tests

open Sys2Proof Sys2Proof.Machine

/-! ### Helpers -/

/-- The next state of an answer, for comparison by `decide`. -/
def nextOf : Result → Option State
  | .next t => some t
  | .fault _ => none
  | .refused _ => none

/-- The refusal of an answer. -/
def refusalOf : Result → Option Refusal
  | .next _ => none
  | .fault _ => none
  | .refused r => some r

/-- The fault of an answer. -/
def faultOf : Result → Option Fault
  | .next _ => none
  | .fault f => some f
  | .refused _ => none

/-- `cfg2` and `cfg3` of 95_test_vectors.md: 2 and 3 attempts, any strictly increasing schedule. -/
def cfg2 : Config := { baud := 1, parity := 0, flow := 0, maxAttempts := 2, backoff := [10], echoTimeout := 5 }
def cfg3 : Config := { cfg2 with maxAttempts := 3, backoff := [10, 20] }

/-- `Open(c)` of 95_test_vectors.md. -/
def openState (c : Config) : State := { State.reset with ctrl := .opened, cfg := some c }

/-- `Open(cfg3)` with bytes in the buffer. -/
def holding (bytes : List Byte) : State := { openState cfg3 with rxBuf := bytes }

/-- `Open(cfg3)` after `SEND MSG(0x82)` (V17a), with an empty trace. -/
def waiting : State :=
  { openState cfg3 with txPhase := .waitEcho, pending := some [0x82, 0x7D], curFrame := some [0x82, 0x7D], attempt := 1 }

/-- The same on the last attempt. -/
def lastWaiting : State := { waiting with attempt := 3, lastFail := some .timeout }

/-- `Open(cfg3)` after `SEND MSG(0x82)` and `TIMEOUT` (V17i), with an empty trace. -/
def backingOff : State := { waiting with pending := none, txPhase := .backoff, lastFail := some .timeout }

/-- `MSG(0x82)` and `MSG(0xE4, 05; 01 02)`. -/
def msg82 : Message := { op := 0x82, declLen := 0, payload := [] }
def msgE4 : Message := { op := 0xE4, declLen := 5, payload := [0x01, 0x02] }

/-! ### Well-formedness: an ill-formed term for each check -/

theorem test_wf_c2_class : (Instr.frameC2 0xA0 0x5F).wf = false := by decide
theorem test_wf_c2_opcode : (Instr.frameC2 0x02 0xFD).wf = false := by decide
theorem test_wf_c4_class : (Instr.frameC4 0x82 0 0 0).wf = false := by decide
theorem test_wf_c6_class : (Instr.frameC6 0xE4 0 0 0 0 0).wf = false := by decide
theorem test_wf_var_class : (Instr.frameVar 0xC0 3 [0]).wf = false := by decide
theorem test_wf_var_body : (Instr.frameVar 0xE4 5 [1, 2]).wf = false := by decide
theorem test_wf_var_bad_length_body : (Instr.frameVar 0xE4 2 [0]).wf = false := by decide
theorem test_wf_data_byte : (Instr.dataByte 0x80).wf = false := by decide
theorem test_wf_payload_too_long :
    (Instr.txReq { op := 0xFF, declLen := 0x7F, payload := List.replicate 125 0 }).wf = false := by decide +kernel
theorem test_wf_schedule : (Instr.openBlock { cfg3 with backoff := [10] }).wf = false := by decide
theorem test_wf_echo_timeout : (Instr.openBlock { cfg3 with echoTimeout := 0 }).wf = false := by decide
theorem test_wf_not_reserved : (Instr.reservedEvent 0x300).wf = false := by decide
theorem test_wf_cks_gen : (Instr.cksGen []).wf = false := by decide
theorem test_wf_cks_chk : (Instr.cksChk [0xFF]).wf = false := by decide
theorem test_wf_encode : (Instr.encodeMsg { msg82 with payload := [1] }).wf = false := by decide
theorem test_wf_frame_msg : (Instr.frameMsg [0x82, 0x7C]).wf = false := by decide
theorem test_wf_accept : (Instr.dAccept 1).wf = false := by decide
theorem test_wf_dispatch : (Instr.dispatch [0x7F, 0x80]).wf = false := by decide
theorem test_wf_holds : (Instr.frameVar 0xE4 5 [1, 2, 0x1D]).wf = true ∧ (Instr.txReq msgE4).wf = true ∧
    (Instr.openBlock cfg3).wf = true ∧ (Instr.reservedEvent 0x301).wf = true := by decide

/-! ### Decoding: every row's word written out from the spec's encoding of it

Wire rows: 30_encoding.md R52-R54, opcode bits 7 (frame start) and 6:5 (class). Event rows: 30_encoding.md R60. -/

theorem test_decode_c2 : decodeInput (.wire 0b10000010#8 [0b01111101#8]) = (.frameC2 0x82 0x7D, []) := by decide
theorem test_decode_c4 : decodeInput (.wire 0b10100000#8 [0x01, 0x02, 0x5C]) = (.frameC4 0xA0 1 2 0x5C, []) := by
  decide
theorem test_decode_c6 :
    decodeInput (.wire 0b11010000#8 [0x01, 0x02, 0x03, 0x04, 0x2B]) = (.frameC6 0xD0 1 2 3 4 0x2B, []) := by decide
theorem test_decode_var :
    decodeInput (.wire 0b11100100#8 [0b00000101#8, 0x01, 0x02, 0x1D]) = (.frameVar 0xE4 5 [1, 2, 0x1D], []) := by
  decide
theorem test_decode_data : decodeInput (.wire 0b01111111#8 [0x82]) = (.dataByte 0x7F, [.wire 0x82 []]) := by decide
theorem test_decode_rx : decodeInput (.event 0b000110000010#12 msg82 cfg2) = (.rxByte 0x82, []) := by decide
theorem test_decode_tx_req : decodeInput (.event 0b001000000000#12 msgE4 cfg2) = (.txReq msgE4, []) := by decide
theorem test_decode_cancel : decodeInput (.event 0b001100000000#12 msg82 cfg2) = (.txCancel, []) := by decide
theorem test_decode_timeout : decodeInput (.event 0b010000000000#12 msg82 cfg2) = (.echoTimeout, []) := by decide
theorem test_decode_backoff : decodeInput (.event 0b010100000000#12 msg82 cfg2) = (.backoffDone, []) := by decide
theorem test_decode_open : decodeInput (.event 0b011000000000#12 msg82 cfg3) = (.openBlock cfg3, []) := by decide
theorem test_decode_close : decodeInput (.event 0b011100000000#12 msg82 cfg2) = (.closeBlock, []) := by decide
theorem test_decode_terr : decodeInput (.event 0b100000000000#12 msg82 cfg2) = (.transportErr, []) := by decide
/-- V19j: words 0x900, 0x000 and 0x301 are reserved. -/
theorem test_decode_reserved : ([0b100100000000#12, 0b000000000000#12, 0b001100000001#12] : List EventWord).map
    (fun w => (decodeInput (.event w msg82 cfg2)).1) =
    [.reservedEvent 0x900, .reservedEvent 0x000, .reservedEvent 0x301] := by decide
/-- R57: a candidate takes its window whatever bytes stand in it; the rest of the burst stays. -/
theorem test_decode_rest :
    decodeInput (.wire 0xA0 [0x80, 0x00, 0xDF, 0x82, 0x7D]) = (.frameC4 0xA0 0x80 0 0xDF, [.wire 0x82 [0x7D]]) := by
  decide
/-- R54: a length byte out of range. -/
theorem test_decode_bad_length : decodeInput (.wire 0xE4 [0x82, 0x7D]) = (.frameVar 0xE4 0x82 [], [.wire 0x7D []]) := by
  decide
theorem test_table_words :
    decodeTableWord 8 0x82 = some (.frameC2 0x82 0) ∧ decodeTableWord 8 0xA0 = some (.frameC4 0xA0 0 0 0) ∧
    decodeTableWord 8 0xD0 = some (.frameC6 0xD0 0 0 0 0 0) ∧ decodeTableWord 8 0xE4 = some (.frameVar 0xE4 0 []) ∧
    decodeTableWord 8 0x7F = some (.dataByte 0x7F) ∧ decodeTableWord 16 0x182 = some (.rxByte 0x82) ∧
    decodeTableWord 16 0x500 = some .backoffDone ∧ decodeTableWord 16 0x900 = some (.reservedEvent 0x900) ∧
    decodeTableWord 16 0x1000 = none ∧ decodeTableWord 24 0x100 = none := by decide

/-- R66, R67: `RXS` is its RX events; `ECHO` is those of the pending frame, and none without one (log entry 18). -/
theorem test_lines :
    EventLine.inputs none (.rxs [0x82, 0x7D]) =
      [.event 0x182 emptyMessage emptyConfig, .event 0x17D emptyMessage emptyConfig] ∧
    (waiting.withLine .echo).inputs =
      [.event 0x182 emptyMessage emptyConfig, .event 0x17D emptyMessage emptyConfig] ∧
    ((openState cfg3).withLine .echo).inputs = [] := by decide

/-- R65, R66: how 95_test_vectors.md writes messages and lines (V2, V17c, V17b). -/
theorem test_text : messageText msgE4 = "MSG(0xE4, 05; 01 02)" ∧ messageText msg82 = "MSG(0x82)" ∧
    (EventLine.rxs [0x83, 0x7C]).text (fun _ => "cfg3") = "RXS 83 7C" ∧
    (EventLine.send msg82).text (fun _ => "cfg3") = "SEND MSG(0x82)" ∧
    (frameText [0xA0, 0x01]).length = 7 := by decide +kernel

theorem test_encodable : Sys2Proof.Laws.Encodable.Statement .txCancel := Sys2Proof.Laws.Encodable.txCancel

/-! ### One step of each meaning -/

/-- V6, V13j: the row's step receives the opcode, which waits; the other bytes come next, one event each (R111). -/
theorem test_frame_c2 : nextOf (exec (.frameC2 0x82 0x7D) (openState cfg3)) =
    some { holding [0x82] with inputs := [.event 0x17D emptyMessage emptyConfig] } := by decide
/-- V1: after one more step the frame is out. -/
theorem test_frame_c2_delivered : nextOf (steps 2 { openState cfg3 with inputs := [.wire 0x82 [0x7D]] }) =
    some { openState cfg3 with trace := [.frameOut [0x82, 0x7D]] } := by decide
/-- V13n. -/
theorem test_frame_c4 : nextOf (exec (.frameC4 0xA0 0x80 0x00 0xDF) (openState cfg3)) =
    some { holding [0xA0] with inputs := [.event 0x180 emptyMessage emptyConfig, .event 0x100 emptyMessage emptyConfig,
      .event 0x1DF emptyMessage emptyConfig] } := by decide
/-- 42_decoder.md R80-R82: the row's opcode fills the window of the candidate that waits (83 XOR A0 is not FF), which is
dropped, and then waits itself. -/
theorem test_frame_c4_after_stale : nextOf (exec (.frameC4 0xA0 1 2 0x5C) (holding [0x83])) =
    some { holding [0xA0] with
      dropCount := 1
      inputs := [.event 0x101 emptyMessage emptyConfig, .event 0x102 emptyMessage emptyConfig,
        .event 0x15C emptyMessage emptyConfig] } := by decide
/-- V9: D0 01 02 03 04 2B. -/
theorem test_frame_c6 : nextOf (exec (.frameC6 0xD0 1 2 3 4 0x2B) (openState cfg3)) =
    some { holding [0xD0] with inputs := [.event 0x101 emptyMessage emptyConfig, .event 0x102 emptyMessage emptyConfig,
      .event 0x103 emptyMessage emptyConfig, .event 0x104 emptyMessage emptyConfig,
      .event 0x12B emptyMessage emptyConfig] } := by decide
/-- V13i: a variable-class opcode alone waits for its length. -/
theorem test_frame_var : nextOf (exec (.frameVar 0xE4 5 [1, 2, 0x1D]) (openState cfg3)) =
    some { holding [0xE4] with inputs := [.event 0x105 emptyMessage emptyConfig, .event 0x101 emptyMessage emptyConfig,
      .event 0x102 emptyMessage emptyConfig, .event 0x11D emptyMessage emptyConfig] } := by decide
/-- V13e, its first two bytes: bad length, then noise. -/
theorem test_frame_var_bad : nextOf (steps 2 { openState cfg3 with inputs := [.wire 0xE4 [0x02]] }) =
    some { openState cfg3 with dropCount := 2 } := by decide
/-- V15: the counter wraps. -/
theorem test_data_byte : nextOf (exec (.dataByte 0x00) { openState cfg3 with dropCount := 0xFFFFFFFF }) =
    some (openState cfg3) := by decide
/-- V13h: a data byte that a candidate waits for is kept. -/
theorem test_data_byte_kept : nextOf (exec (.dataByte 0x01) (holding [0xE4, 0x05])) =
    some (holding [0xE4, 0x05, 0x01]) := by decide
/-- V13o: two frames from one byte. -/
theorem test_rx_two_frames : nextOf (exec (.rxByte 0x00) (holding [0xE4, 0x08, 0x82, 0x7D, 0x83, 0x7C, 0x00])) =
    some { openState cfg3 with dropCount := 4, trace := [.frameOut [0x82, 0x7D], .frameOut [0x83, 0x7C]] } := by decide
/-- V17e: the foreign frame on the last attempt, put out before the report. -/
theorem test_rx_collision : nextOf (exec (.rxByte 0x7C) { lastWaiting with rxBuf := [0x83] }) =
    some { openState cfg3 with trace := [.frameOut [0x83, 0x7C], .txDone .transmitCollision] } := by decide
/-- V17a. -/
theorem test_tx_req : nextOf (exec (.txReq msg82) (openState cfg3)) =
    some { waiting with trace := [.wireTx [0x82, 0x7D]] } := by decide
/-- V11: (0x7F, 200, [01]) is InvalidOpcode, opcode before length. -/
theorem test_tx_req_opcode_first :
    nextOf (exec (.txReq { op := 0x7F, declLen := 200, payload := [1] }) (openState cfg3)) =
    some { openState cfg3 with trace := [.txDone .invalidOpcode] } := by decide
/-- V17i. -/
theorem test_cancel : nextOf (exec .txCancel backingOff) =
    some { openState cfg3 with trace := [.txDone .cancelled] } := by decide
/-- V17d. -/
theorem test_timeout : nextOf (exec .echoTimeout waiting) = some backingOff := by decide
theorem test_timeout_last : nextOf (exec .echoTimeout lastWaiting) =
    some { openState cfg3 with trace := [.txDone .transmitTimeout] } := by decide
/-- V17d. -/
theorem test_backoff : nextOf (exec .backoffDone backingOff) =
    some { waiting with attempt := 2, lastFail := some .timeout, trace := [.wireTx [0x82, 0x7D]] } := by decide
/-- V17r: stale when idle. -/
theorem test_backoff_stale : nextOf (exec .backoffDone (openState cfg3)) = some (openState cfg3) := by decide
/-- V19b, for a configuration the implementation accepts. -/
theorem test_open (h : cfg3.accepted = true) : exec (.openBlock cfg3) State.reset =
    .next { openState cfg3 with trace := [.openDone .ok] } := by
  have hv : configValid cfg3 = true := by
    unfold configValid
    rw [h]
    decide
  simp [exec, execOpen, State.reset, hv, State.openWith, openState]
/-- V19j. -/
theorem test_open_while_open : refusalOf (exec (.openBlock cfg3) (openState cfg3)) = some .openWhileOpen := by decide
/-- V19e. -/
theorem test_close : nextOf (exec .closeBlock { waiting with dropCount := 2 }) =
    some { State.reset with dropCount := 2, trace := [.txDone .closed, .streamEnd] } := by decide
/-- V19i: the partial candidate is discarded uncounted. -/
theorem test_close_idle : nextOf (exec .closeBlock (holding [0xE4, 0x05, 0x01])) =
    some { State.reset with trace := [.streamEnd] } := by decide
/-- V19f. -/
theorem test_transport_err : nextOf (exec .transportErr backingOff) =
    some { State.reset with trace := [.txDone .transportError, .streamEnd] } := by decide
/-- V19j. -/
theorem test_reserved : refusalOf (exec (.reservedEvent 0x900) (openState cfg3)) = some .reservedWord := by decide
/-- V9: EF 0E and eleven zeros. -/
theorem test_cks_gen : nextOf (exec (.cksGen (0xEF :: 0x0E :: List.replicate 11 0)) State.reset) =
    some { State.reset with result := .byte 0x1E } := by decide
/-- V10: 83 7D 01 80 fails. -/
theorem test_cks_chk : nextOf (exec (.cksChk [0x83, 0x7D, 0x01, 0x80]) State.reset) =
    some { State.reset with result := .check false } := by decide
/-- V11: (0xE0, 2, []) and (0x82, 99, []). -/
theorem test_msg_build :
    nextOf (exec (.msgBuild { op := 0xE0, declLen := 2, payload := [] }) State.reset) =
      some { State.reset with result := .built (some .invalidLength) } ∧
    nextOf (exec (.msgBuild { op := 0x82, declLen := 99, payload := [] }) State.reset) =
      some { State.reset with result := .built none } := by decide
/-- V2. -/
theorem test_encode : nextOf (exec (.encodeMsg msgE4) State.reset) =
    some { State.reset with result := .frame [0xE4, 0x05, 0x01, 0x02, 0x1D] } := by decide
/-- V12. -/
theorem test_frame_msg : nextOf (exec (.frameMsg [0xA0, 0x01, 0x02, 0x5C]) State.reset) =
    some { State.reset with result := .message { op := 0xA0, declLen := 4, payload := [1, 2] } } := by decide
theorem test_frame_msg_var : nextOf (exec (.frameMsg [0xE0, 0x03, 0x1C]) State.reset) =
    some { State.reset with result := .message { op := 0xE0, declLen := 3, payload := [] } } := by decide
/-- V13l: ACCEPT, WAIT. -/
theorem test_decode_loop : nextOf (exec .decodeLoop (holding [0xA0, 0x01, 0x02, 0x5C, 0x82])) =
    some { holding [0x82] with result := .frames [[0xA0, 0x01, 0x02, 0x5C]] } := by decide
/-- V13a: the first micro-step. -/
theorem test_d_noise : nextOf (exec .dNoise (holding [0x00, 0x7F])) =
    some { holding [0x7F] with dropCount := 1 } := by decide
/-- V13i. -/
theorem test_d_wait : nextOf (exec .dWait (holding [0xE4])) = some (holding [0xE4]) := by decide
/-- V13b: the first micro-step. -/
theorem test_d_accept : nextOf (exec (.dAccept 2) (holding [0x82, 0x7D, 0x83])) =
    some { holding [0x83] with result := .frame [0x82, 0x7D] } := by decide
/-- V13c: RESYNC drops `82` alone. -/
theorem test_d_resync : nextOf (exec .dResync (holding [0x82, 0x7C])) =
    some { holding [0x7C] with dropCount := 1 } := by decide
/-- V13g: the first micro-step. -/
theorem test_d_bad_len : nextOf (exec .dBadLen (holding [0xE4, 0xFF, 0x00])) =
    some { holding [0xFF, 0x00] with dropCount := 1 } := by decide
/-- 43_echo_collision.md R90. -/
theorem test_tx_issue : nextOf (exec .txIssue { openState cfg3 with curFrame := some [0x82, 0x7D] }) =
    some { waiting with trace := [.wireTx [0x82, 0x7D]] } := by decide
/-- V17a, the last step. -/
theorem test_dispatch_echo : nextOf (exec (.dispatch [0x82, 0x7D]) waiting) =
    some { openState cfg3 with trace := [.txDone .ok] } := by decide
/-- V17c: a collision on attempt 1. -/
theorem test_dispatch_foreign : nextOf (exec (.dispatch [0x83, 0x7C]) waiting) =
    some { backingOff with lastFail := some .collision, trace := [.frameOut [0x83, 0x7C]] } := by decide
theorem test_fail_attempt : nextOf (exec (.failAttempt .collision) lastWaiting) =
    some { openState cfg3 with trace := [.txDone .transmitCollision] } := by decide
/-- The faults are for states that break R26 only (log entry 10). -/
theorem test_faults :
    faultOf (exec (.rxByte 0) (holding (List.replicate 127 0x80))) = some .rxOverflow ∧
    faultOf (exec .txIssue State.reset) = some .noFrame ∧
    faultOf (exec (.failAttempt .timeout) State.reset) = some .noConfig := by decide +kernel
theorem test_operands_not_met : refusalOf (exec .dNoise (holding [0x82])) = some .operandsNotMet := by decide

/-- V17p: the second request is held, in its place, and the next other event passes it. -/
theorem test_hold : nextOf (step { waiting with inputs := [.event 0x200 msg82 cfg2, .event 0x300 msg82 cfg2] }) =
    some { openState cfg3 with inputs := [.event 0x200 msg82 cfg2], trace := [.txDone .cancelled] } := by decide
theorem test_step_fetch_word : nextOf (step ((openState cfg3).withFetchWord 16 0x182)) = some (holding [0x82]) := by
  decide
/-- V17a: the status port after the send, and R18's phases. -/
theorem test_status_port : waiting.statusPort = { isOpen := true, busy := true, echoArmed := true, dropCount := 0 } ∧
    backingOff.statusPort = { isOpen := true, busy := true, echoArmed := false, dropCount := 0 } := by decide
theorem test_dec_phase : decPhase [] = .scan ∧ decPhase [0xE4] = .waitLen ∧ decPhase [0x82] = .waitBody ∧
    decPhase [0xE4, 0x05] = .waitBody := by decide
theorem test_timer : waiting.timer = some (.echo 5) ∧ backingOff.timer = some (.backoff 10) ∧
    (openState cfg3).timer = none := by decide
theorem test_agent : (Instr.rxByte 0).agent = some .bus ∧ (Instr.txReq msg82).agent = some .host ∧
    Instr.echoTimeout.agent = some .echoTimer ∧ Instr.backoffDone.agent = some .backoffTimer := by decide

/-! ### States that meet the invariant -/

theorem inv_open : Inv (openState cfg3) := by
  constructor <;> simp [openState, State.reset]
  decide

theorem inv_waiting : Inv waiting := by
  constructor <;> simp [waiting, openState, State.reset, cfg3]
  all_goals decide

theorem inv_last_waiting : Inv lastWaiting := by
  constructor <;> simp [lastWaiting, waiting, openState, State.reset, cfg3]
  all_goals decide

theorem inv_backing_off : Inv backingOff := by
  constructor <;> simp [backingOff, waiting, openState, State.reset, cfg3]
  all_goals decide

theorem inv_inputs {s : State} (h : Inv s) (l : List Input) : Inv { s with inputs := l } := by
  obtain ⟨a, b, c, d, e, f, g, i, j, k, l, m⟩ := h
  exact ⟨a, b, c, d, e, f, g, i, j, k, l, m⟩

/-! ### Witnesses: a state and operands that meet each statement's hypotheses -/

theorem witness_DecodeOfEncode : (Instr.frameVar 0xFF 0x7F (List.replicate 125 0x7F)).wf = true ∧
    (Instr.frameVar 0xFF 0x7F (List.replicate 125 0x7F)).isInternal = false ∧
    (Instr.frameVar 0xE0 3 [0x1C]).wf = true ∧ (Instr.frameVar 0xE0 2 []).wf = true ∧
    (Instr.reservedEvent 0x9FF).wf = true := by decide +kernel

theorem witness_ReservedWordsAreRefused :
    ((0x0FF : EventWord).toNat / 256 = 0) ∧ (9 ≤ (0x900 : EventWord).toNat / 256) ∧
    (2 ≤ (0x2FF : EventWord).toNat / 256 ∧ (0x801 : EventWord).toNat / 256 ≤ 8 ∧ (0x801 : EventWord).toNat % 256 ≠ 0) ∧
    ¬ ((0x1FF : EventWord).toNat / 256 = 0 ∨ 9 ≤ (0x1FF : EventWord).toNat / 256 ∨
      (2 ≤ (0x1FF : EventWord).toNat / 256 ∧ (0x1FF : EventWord).toNat / 256 ≤ 8 ∧
        (0x1FF : EventWord).toNat % 256 ≠ 0)) ∧
    ¬ ((0x800 : EventWord).toNat / 256 = 0 ∨ 9 ≤ (0x800 : EventWord).toNat / 256 ∨
      (2 ≤ (0x800 : EventWord).toNat / 256 ∧ (0x800 : EventWord).toNat / 256 ≤ 8 ∧
        (0x800 : EventWord).toNat % 256 ≠ 0)) := by decide

/-- V10's frames: changes that cancel (83 7D 01 80 is two bytes of a passing list changed), and a single change. -/
theorem witness_ChecksumDetectsErrors : checksumOk [0x82, 0x7D] = true ∧
    ([0x83, 0x7C] : Frame).length = ([0x82, 0x7D] : Frame).length ∧
    xorBytes (List.zipWith (· ^^^ ·) [0x82, 0x7D] [0x83, 0x7C]) = 0x00 ∧
    1 < ([0x82, 0x7D] : Frame).length ∧ ([0x82, 0x7D] : Frame)[1]? ≠ some 0x7C := by decide

theorem witness_DataFrameChecksumIsDataByte :
    isOpcode 0xFF = true ∧ ∀ b ∈ ([0x7F, 0x00] : List Byte), isOpcode b = false := by decide

theorem witness_EncodeBuildsValidFrame : messageError msg82 = none ∧ messageError msgE4 = none ∧
    messageError { op := 0xBF, declLen := 0, payload := [0, 0] } = none ∧
    messageError { op := 0xC0, declLen := 0, payload := [0, 0, 0, 0] } = none ∧
    messageError { op := 0xFF, declLen := 0x7F, payload := List.replicate 124 0x7F } = none := by decide +kernel

theorem witness_MessageEqualityIsFrameEquality : messageError msgE4 = none ∧
    messageError { msg82 with declLen := 99 } = none ∧ messageEq msg82 { msg82 with declLen := 99 } = true ∧
    messageEq msgE4 msgE4 = true ∧ lengthClass msgE4.op = .var := by decide

theorem witness_FrameMessageInvertsEncode : isFrame [0x82, 0x7D] = true ∧ isFrame [0xE0, 0x03, 0x1C] = true ∧
    lengthClass 0xE0 = .var ∧ lengthClass 0x82 ≠ .var := by decide

theorem witness_ClosedBlockIgnoresBytes : State.reset.ctrl = .closed := by decide

theorem witness_DropMicroStepsDropOneByte :
    ((holding [0x7F]).rxBuf = 0x7F :: [] ∧ isOpcode 0x7F = false) ∧
    ((holding [0x82, 0x7C]).rxBuf = 0x82 :: [0x7C] ∧ isOpcode 0x82 = true ∧
      expLen (holding [0x82, 0x7C]).rxBuf = .len 2 ∧ 2 ≤ (holding [0x82, 0x7C]).rxBuf.length ∧
      checksumOk ((holding [0x82, 0x7C]).rxBuf.take 2) = false) ∧
    ((holding [0xE0, 0x02]).rxBuf = 0xE0 :: 0x02 :: [] ∧ 0xE0 ≤ (0xE0 : Byte).toNat ∧ (0x02 : Byte).toNat < 3) ∧
    ((holding [0xFF, 0x80]).rxBuf = 0xFF :: 0x80 :: [] ∧ 0xE0 ≤ (0xFF : Byte).toNat ∧
      127 < (0x80 : Byte).toNat) := by decide

theorem witness_WaitAndAcceptMicroSteps :
    (holding []).rxBuf = [] ∧
    ((holding [0xE4]).rxBuf = 0xE4 :: [] ∧ isOpcode 0xE4 = true ∧ expLen (holding [0xE4]).rxBuf = .needMore) ∧
    ((holding [0xA0, 1, 2]).rxBuf = 0xA0 :: [1, 2] ∧ isOpcode 0xA0 = true ∧
      expLen (holding [0xA0, 1, 2]).rxBuf = .len 4 ∧ (holding [0xA0, 1, 2]).rxBuf.length < 4) ∧
    ((holding [0x82, 0x7D]).rxBuf = 0x82 :: [0x7D] ∧ isOpcode 0x82 = true ∧
      expLen (holding [0x82, 0x7D]).rxBuf = .len 2 ∧ 2 ≤ (holding [0x82, 0x7D]).rxBuf.length ∧
      checksumOk ((holding [0x82, 0x7D]).rxBuf.take 2) = true) := by decide

theorem witness_ReceiveForwardsEveryFrame : (holding [0x82]).ctrl = .opened ∧ (holding [0x82]).rxBuf.length ≤ 126 ∧
    (holding [0x82]).txPhase ≠ .waitEcho ∧ (holding (List.replicate 126 0x80)).rxBuf.length ≤ 126 := by decide +kernel

/-- One witness for each way out: no frame, the echo, a foreign frame with and without an attempt left. -/
theorem witness_ReceiveComparesFirstFrame :
    (waiting.ctrl = .opened ∧ waiting.rxBuf.length ≤ 126 ∧ waiting.txPhase = .waitEcho ∧ waiting.cfg = some cfg3 ∧
      decodeAll { rxBuf := waiting.rxBuf ++ [0x82], dropCount := waiting.dropCount, out := [] } =
        { rxBuf := [0x82], dropCount := 0, out := [] }) ∧
    (decodeAll { rxBuf := [0x82] ++ [0x7D], dropCount := 0, out := [] } =
        { rxBuf := [], dropCount := 0, out := [[0x82, 0x7D]] } ∧ waiting.pending = some [0x82, 0x7D]) ∧
    (decodeAll { rxBuf := [0x83] ++ [0x7C], dropCount := 0, out := [] } =
        { rxBuf := [], dropCount := 0, out := [[0x83, 0x7C]] } ∧ waiting.pending ≠ some [0x83, 0x7C] ∧
      waiting.attempt.toNat < cfg3.maxAttempts.toNat) ∧
    (lastWaiting.ctrl = .opened ∧ lastWaiting.txPhase = .waitEcho ∧ lastWaiting.cfg = some cfg3 ∧
      ¬ lastWaiting.attempt.toNat < cfg3.maxAttempts.toNat) := by decide

theorem witness_ValidWireFramesAreDelivered : (openState cfg3).ctrl = .opened ∧ (openState cfg3).rxBuf = [] ∧
    (openState cfg3).txPhase ≠ .waitEcho ∧ isFrame [0x82, 0x7D] = true ∧ isFrame [0xA0, 1, 2, 0x5C] = true ∧
    isFrame [0xD0, 1, 2, 3, 4, 0x2B] = true ∧ isFrame (0xE0 :: 0x03 :: [0x1C]) = true ∧ isOpcode 0x7F = false := by
  decide

/-- A row of each length: RX_BYTE, and the four classes. -/
theorem witness_ReceivingAlwaysCompletes : Inv waiting ∧
    (Instr.rxByte 0x82 = .rxByte 0x82 ∧ ([] : List Byte) = []) ∧
    (∃ cks, Instr.frameC2 0x82 0x7D = .frameC2 0x82 cks ∧ ([0x7D] : List Byte) = [cks]) ∧
    (∃ p0 p1 cks, Instr.frameC4 0xA0 1 2 0x5C = .frameC4 0xA0 p0 p1 cks ∧ ([1, 2, 0x5C] : List Byte) = [p0, p1, cks]) ∧
    (∃ p0 p1 p2 p3 cks, Instr.frameC6 0xD0 1 2 3 4 0x2B = .frameC6 0xD0 p0 p1 p2 p3 cks ∧
      ([1, 2, 3, 4, 0x2B] : List Byte) = [p0, p1, p2, p3, cks]) ∧
    ∃ len body, Instr.frameVar 0xE0 3 [0x1C] = .frameVar 0xE0 len body ∧ ([3, 0x1C] : List Byte) = len :: body :=
  ⟨inv_waiting, ⟨rfl, rfl⟩, ⟨_, rfl, rfl⟩, ⟨_, _, _, rfl, rfl⟩, ⟨_, _, _, _, _, rfl, rfl⟩, ⟨_, _, rfl, rfl⟩⟩

theorem witness_RoundTripByteByByte : messageError msgE4 = none ∧ (openState cfg3).ctrl = .opened ∧
    (openState cfg3).rxBuf = [] ∧ (openState cfg3).txPhase ≠ .waitEcho ∧ 0 < (frameOfMessage msgE4).length ∧
    4 < (frameOfMessage msgE4).length := by decide

/-- V5, and a variable-class frame whose payload is corrupted. -/
theorem witness_ResynchronisesAfterOneCorruptByte :
    (isFrame [0xA0, 0x05, 0x02, 0x58] = true ∧ isFrame [0x82, 0x7D] = true ∧
      (∀ y ∈ ([0xA0, 0x05, 0x02, 0x58] : Frame).drop 1, isOpcode y = false) ∧ isOpcode 0x04 = false ∧
      ([0xA0, 0x05, 0x02, 0x58] : Frame)[1]? ≠ some 0x04 ∧ lengthClass 0xA0 ≠ .var) ∧
    (isFrame [0xE4, 0x05, 0x01, 0x02, 0x1D] = true ∧
      (∀ y ∈ ([0xE4, 0x05, 0x01, 0x02, 0x1D] : Frame).drop 1, isOpcode y = false) ∧
      ([0xE4, 0x05, 0x01, 0x02, 0x1D] : Frame)[4]? ≠ some 0x1C) ∧
    (openState cfg3).ctrl = .opened ∧ (openState cfg3).rxBuf = [] ∧ (openState cfg3).txPhase ≠ .waitEcho := by decide

theorem witness_RequestStartsSend : (openState cfg3).ctrl = .opened ∧ (openState cfg3).txPhase = .idle ∧
    messageError msg82 = none := by decide

theorem witness_RequestErrorsInOrder : State.reset.ctrl = .closed ∧ (openState cfg3).ctrl = .opened ∧
    (openState cfg3).txPhase = .idle ∧ (0x7F : Byte).toNat < 0x80 ∧ 0x80 ≤ (0x82 : Byte).toNat ∧
    payloadNeed { msg82 with payload := [1] } ≠ some ({ msg82 with payload := [1] } : Message).payload.length ∧
    payloadNeed { op := 0xE0, declLen := 2, payload := [] } ≠ some 0 := by decide

theorem witness_RequestsAreHeldWhileBusy : waiting.ctrl = .opened ∧ waiting.txPhase ≠ .idle ∧
    backingOff.txPhase ≠ .idle ∧
    (∀ inp ∈ [Input.event 0x200 msg82 cfg3], ∃ m c, inp = .event 0x200 m c) ∧ (0x300 : EventWord) ≠ 0x200 := by
  refine ⟨by decide, by decide, by decide, ?_, by decide⟩
  intro inp h
  exact ⟨msg82, cfg3, by simpa using h⟩

theorem witness_IssueWritesAndArms : backingOff.curFrame = some [0x82, 0x7D] := by decide

theorem witness_DispatchDecidesOneFrame : backingOff.txPhase ≠ .waitEcho ∧ waiting.txPhase = .waitEcho ∧
    waiting.pending = some [0x82, 0x7D] ∧ waiting.pending ≠ some [0x83, 0x7C] := by decide

theorem witness_FailedAttemptRetriesOrReports : waiting.cfg = some cfg3 ∧ lastWaiting.cfg = some cfg3 ∧
    waiting.attempt.toNat < cfg3.maxAttempts.toNat ∧ ({ waiting with attempt := 2 } : State).attempt.toNat <
    cfg3.maxAttempts.toNat ∧ cfg3.maxAttempts.toNat ≤ lastWaiting.attempt.toNat := by decide

theorem witness_EchoTimeoutFailsAttempt : waiting.ctrl = .opened ∧ waiting.txPhase = .waitEcho ∧
    waiting.cfg = some cfg3 ∧ waiting.attempt.toNat < cfg3.maxAttempts.toNat ∧ lastWaiting.txPhase = .waitEcho ∧
    lastWaiting.cfg = some cfg3 ∧ cfg3.maxAttempts.toNat ≤ lastWaiting.attempt.toNat ∧ State.reset.ctrl = .closed ∧
    backingOff.txPhase ≠ .waitEcho := by decide

theorem witness_BackoffDoneRetries : backingOff.ctrl = .opened ∧ backingOff.txPhase = .backoff ∧
    backingOff.curFrame = some [0x82, 0x7D] ∧ State.reset.ctrl = .closed ∧ waiting.txPhase ≠ .backoff := by decide

theorem witness_CancelEndsSend : waiting.ctrl = .opened ∧ waiting.txPhase ≠ .idle ∧ backingOff.txPhase ≠ .idle ∧
    State.reset.ctrl = .closed ∧ (openState cfg3).txPhase = .idle := by decide

theorem witness_CancelledEchoIsInbound : Inv waiting ∧ waiting.ctrl = .opened ∧ waiting.rxBuf = [] ∧
    waiting.curFrame = some [0x82, 0x7D] :=
  ⟨inv_waiting, by decide⟩

theorem witness_LateEchoMeetsBackoffOrNextAttempt : Inv waiting ∧ waiting.txPhase = .waitEcho ∧ waiting.rxBuf = [] ∧
    waiting.cfg = some cfg3 ∧ waiting.attempt.toNat < cfg3.maxAttempts.toNat ∧
    waiting.pending = some [0x82, 0x7D] :=
  ⟨inv_waiting, by decide⟩

theorem witness_EchoIsSuppressed : Inv (openState cfg3) ∧ (openState cfg3).ctrl = .opened ∧
    (openState cfg3).txPhase = .idle ∧ (openState cfg3).rxBuf = [] ∧ messageError msg82 = none :=
  ⟨inv_open, by decide⟩

/-- P3 with a timeout in the middle. -/
theorem witness_SendFailsAfterMaxAttempts : Inv (openState cfg3) ∧ (openState cfg3).ctrl = .opened ∧
    (openState cfg3).txPhase = .idle ∧ (openState cfg3).rxBuf = [] ∧ (openState cfg3).cfg = some cfg3 ∧
    messageError msg82 = none ∧
    ([some [0x83, 0x7C], none, some [0x85, 0x7A]] : List FailedAttempt).length = cfg3.maxAttempts.toNat ∧
    ∀ f, some f ∈ ([some [0x83, 0x7C], none, some [0x85, 0x7A]] : List FailedAttempt) →
      isFrame f = true ∧ f ≠ frameOfMessage msg82 := by
  refine ⟨inv_open, by decide, by decide, by decide, by decide, by decide, by decide, ?_⟩
  intro f h
  simp at h
  rcases h with rfl | rfl <;> decide

/-- A fair run: a send in progress is cancelled, then nothing comes. -/
def cancelledRun : Nat → State
  | 0 => { waiting with inputs := [plainEvent 3 0] }
  | _ + 1 => { openState cfg3 with trace := [.txDone .cancelled] }

theorem witness_FairSendsEnd : IsRun cancelledRun ∧ FairRun cancelledRun ∧ Inv (cancelledRun 0) ∧
    (cancelledRun 0).txPhase ≠ .idle ∧ (cancelledRun 0).cfg = some cfg3 := by
  refine ⟨?_, ⟨?_, ?_⟩, inv_inputs inv_waiting _, by decide, by decide⟩
  · intro k
    cases k <;> rfl
  · intro k _
    exact ⟨k + 1, by omega, by simp [cancelledRun, openState, State.reset]⟩
  · intro k _
    exact ⟨k + 1, by omega, by simp [cancelledRun, openState, State.reset]⟩

theorem witness_OpenResetsOrRejects : State.reset.ctrl = .closed ∧ configRequired cfg3 = true := by decide

theorem witness_OpenRejectsUnusableConfig : State.reset.ctrl = .closed ∧
    ({ cfg3 with maxAttempts := 0 } : Config).maxAttempts.toNat = 0 ∧
    ({ cfg3 with echoTimeout := 0 } : Config).echoTimeout = 0 ∧
    ∃ j k x y, j < k ∧ backoffDelay { cfg3 with backoff := [10, 10] } j = some x ∧
      backoffDelay { cfg3 with backoff := [10, 10] } k = some y ∧ y ≤ x :=
  ⟨by decide, by decide, rfl, 1, 2, 10, 10, by decide, by decide, by decide, by decide⟩

theorem witness_OpenWhileOpenIsRefused : (openState cfg3).ctrl = .opened := by decide

theorem witness_CloseEndsSession : State.reset.ctrl = .closed ∧ waiting.ctrl = .opened ∧ waiting.txPhase ≠ .idle ∧
    (openState cfg3).ctrl = .opened ∧ (openState cfg3).txPhase = .idle := by decide

theorem witness_TransportFailureEndsSession : State.reset.ctrl = .closed ∧ backingOff.ctrl = .opened ∧
    backingOff.txPhase ≠ .idle ∧ (openState cfg3).ctrl = .opened ∧ (openState cfg3).txPhase = .idle := by decide

theorem witness_ClosedBlockEvents : State.reset.ctrl = .closed := by decide

theorem witness_StepKeepsInvariant : Inv lastWaiting ∧ step lastWaiting = .next lastWaiting ∧
    Inv { waiting with inputs := [plainEvent 4 0] } ∧
    step { waiting with inputs := [plainEvent 4 0] } = .next backingOff :=
  ⟨inv_last_waiting, rfl, inv_inputs inv_waiting _, rfl⟩

/-- The invariant and each of the three ways a step can end. -/
theorem witness_StepStopsOnlyAsTheSpecSays : Inv (openState cfg3) ∧
    nextOf (step { openState cfg3 with inputs := [plainEvent 7 0] }) ≠ none ∧
    refusalOf (step { openState cfg3 with inputs := [plainEvent 9 0] }) = some .reservedWord ∧
    refusalOf (step { openState cfg3 with inputs := [plainEvent 6 0] }) = some .openWhileOpen :=
  ⟨inv_open, by decide, by decide, by decide⟩

/-- A held request before an event that may be taken; and only a held request. -/
theorem witness_StepRunsDecodedInput :
    ({ waiting with inputs := [.event 0x200 msg82 cfg2, plainEvent 3 0, plainEvent 7 0] } : State).inputs =
      [.event 0x200 msg82 cfg2] ++ plainEvent 3 0 :: [plainEvent 7 0] ∧
    (∀ x ∈ [Input.event 0x200 msg82 cfg2],
      inputEnabled { waiting with inputs := [.event 0x200 msg82 cfg2, plainEvent 3 0, plainEvent 7 0] } x = false) ∧
    inputEnabled { waiting with inputs := [.event 0x200 msg82 cfg2, plainEvent 3 0, plainEvent 7 0] }
      (plainEvent 3 0) = true ∧
    (∀ x ∈ [Input.event 0x200 msg82 cfg2],
      inputEnabled { waiting with inputs := [.event 0x200 msg82 cfg2] } x = false) := by decide

/-- Every flag the invariants speak of is up in one state and down in another. -/
theorem witness_StatusPortShowsState : Inv waiting ∧ Inv backingOff ∧ waiting.statusPort.echoArmed = true ∧
    backingOff.statusPort.busy = true ∧ backingOff.statusPort.echoArmed = false :=
  ⟨inv_waiting, inv_backing_off, rfl, rfl, rfl⟩

theorem witness_TraceGrowsWithProperStatuses : exec .txCancel waiting =
    .next { openState cfg3 with trace := [.txDone .cancelled] } := rfl

theorem witness_EventReportsAtMostOnce : Instr.echoTimeout.isInternal = false ∧ exec .echoTimeout lastWaiting =
    .next { openState cfg3 with trace := [.txDone .transmitTimeout] } ∧ lastWaiting.ctrl = .opened :=
  ⟨rfl, rfl, rfl⟩

theorem witness_OnlyIssueWritesTheWire : Instr.backoffDone.isInternal = false ∧ exec .backoffDone backingOff =
    .next { waiting with attempt := 2, lastFail := some .timeout, trace := [.wireTx [0x82, 0x7D]] } ∧
    (Instr.txReq msg82).isInternal = false ∧ exec (.txReq msg82) (openState cfg3) =
    .next { waiting with trace := [.wireTx [0x82, 0x7D]] } :=
  ⟨rfl, rfl, rfl, rfl⟩

theorem witness_ConfigFixedWhileOpen : exec .echoTimeout waiting = .next backingOff ∧ waiting.ctrl = .opened ∧
    backingOff.ctrl = .opened := ⟨rfl, rfl, rfl⟩

theorem witness_OnlyTheDecoderCounts : exec .backoffDone backingOff =
    .next { waiting with attempt := 2, lastFail := some .timeout, trace := [.wireTx [0x82, 0x7D]] } ∧
    exec .closeBlock { openState cfg3 with dropCount := 2 } =
    .next { State.reset with dropCount := 2, trace := [.streamEnd] } := ⟨rfl, rfl⟩

end Sys2Proof.Tests
end

section
/-! The obligations of 00_scope.md: which configurations OPEN rejects (R3, R4), and which event a step takes (R12). -/

namespace Sys2Proof.Machine

/-! ### The required conditions on a configuration -/

/-- The model's test of neighbouring delays is Mathlib's chain of `<`. -/
theorem strictlyIncreasing_iff_isChain (l : List Nat) : strictlyIncreasing l = true ↔ l.IsChain (· < ·) := by
  induction l with
  | nil => simp [strictlyIncreasing]
  | cons a rest ih =>
    cases rest with
    | nil => simp [strictlyIncreasing]
    | cons b rest => simp [strictlyIncreasing, List.isChain_cons_cons, ← ih]

/-- In a strictly increasing schedule any later delay is longer, not only the next one. -/
theorem strictlyIncreasing_getElem?_lt {l : List Nat} (h : strictlyIncreasing l = true) {i j x y : Nat} (hij : i < j)
    (hx : l[i]? = some x) (hy : l[j]? = some y) : x < y := by
  have hsorted : l.Pairwise (· < ·) := List.isChain_iff_pairwise.1 ((strictlyIncreasing_iff_isChain l).1 h)
  obtain ⟨hi, rfl⟩ := List.getElem?_eq_some_iff.1 hx
  obtain ⟨hj, rfl⟩ := List.getElem?_eq_some_iff.1 hy
  exact List.pairwise_iff_getElem.1 hsorted i j hi hj hij

theorem backoffDelay_eq_some {c : Config} {k x : Nat} :
    backoffDelay c k = some x ↔ k ≠ 0 ∧ c.backoff[k - 1]? = some x := by
  simp [backoffDelay]

theorem configRequired_iff (c : Config) :
    configRequired c = true ↔ 1 ≤ c.maxAttempts.toNat ∧ c.backoff.length = c.maxAttempts.toNat - 1 ∧
      strictlyIncreasing c.backoff = true ∧ 0 < c.echoTimeout := by
  simp [configRequired, scheduleFits, and_assoc]

/-- The delays of a configuration that meets the required conditions increase with the attempt (00_scope.md R4). -/
theorem backoffDelay_lt_of_configRequired {c : Config} (h : configRequired c = true) {j k x y : Nat} (hjk : j < k)
    (hx : backoffDelay c j = some x) (hy : backoffDelay c k = some y) : x < y := by
  obtain ⟨-, -, hinc, -⟩ := (configRequired_iff c).1 h
  obtain ⟨hj, hx⟩ := backoffDelay_eq_some.1 hx
  obtain ⟨-, hy⟩ := backoffDelay_eq_some.1 hy
  exact strictlyIncreasing_getElem?_lt hinc (by omega) hx hy

/-- The open parameter only narrows what is valid (log entry 8). -/
theorem configRequired_of_configValid {c : Config} (h : configValid c = true) : configRequired c = true :=
  (Bool.and_eq_true_iff.1 h).1

/-! ### OPEN -/

/-- What OPEN does to a closed block (44_control.md R101). -/
theorem exec_openBlock_of_closed (c : Config) {s : State} (h : s.ctrl = .closed) :
    exec (.openBlock c) s =
      .next (if configValid c = true then s.openWith c else s.emit (.openDone .configError)) := by
  simp [exec, execOpen, h]

/-- Settles O43: each of the three faults contradicts a required condition, so the configuration is not valid. -/
theorem openRejectsUnusableConfig : Obligations.OpenRejectsUnusableConfig := by
  intro c s hclosed hbad
  have hinvalid : ¬ configValid c = true := by
    intro hvalid
    have hreq := configRequired_of_configValid hvalid
    obtain ⟨hattempts, -, -, htimeout⟩ := (configRequired_iff c).1 hreq
    obtain hzero | hzero | ⟨j, k, x, y, hjk, hx, hy, hyx⟩ := hbad
    · omega
    · omega
    · exact absurd (backoffDelay_lt_of_configRequired hreq hjk hx hy) (by omega)
  rw [exec_openBlock_of_closed c hclosed, if_neg hinvalid]
  rfl

/-! ### The input a step takes -/

section
variable {s : State}

/-- The first enabled input is fetched from behind the requests held before it. -/
theorem fetch_of_first_enabled {held rest : List Input} {inp : Input} (hs : s.inputs = held ++ inp :: rest)
    (hheld : ∀ x ∈ held, inputEnabled s x = false) (hinp : inputEnabled s inp = true) :
    fetch s =
      some ((decodeInput inp).1, { s with inputs := held ++ (decodeInput inp).2 ++ rest }) := by
  simp [fetch, hs, firstEnabled_skip _ _ _ hheld, firstEnabled_head _ _ _ hinp]

theorem step_of_fetch {i : Instr} {t : State} (h : fetch s = some (i, t)) : step s = exec i t := by
  simp [step, h]

/-- With no input that may be taken the step changes nothing (60_exceptions.md R118). -/
theorem step_of_all_held (h : ∀ x ∈ s.inputs, inputEnabled s x = false) : step s = .next s := by
  obtain ⟨-, hstep⟩ | ⟨before, inp, after, hs, hinp, -⟩ := step_cases s
  · exact hstep
  · have hheld : inputEnabled s inp = false := h inp (by simp [hs])
    simp [hheld] at hinp

end

/-- Settles O52: the fetch passes over the held requests to the first enabled input. -/
theorem stepRunsDecodedInput : Obligations.StepRunsDecodedInput :=
  ⟨fun _ _ _ _ hs hheld hinp => step_of_fetch (fetch_of_first_enabled hs hheld hinp), fun _ => step_of_all_held⟩

end Sys2Proof.Machine
end

section
/-! The obligations of 10_state.md on what instructions leave as it is: the bytes the decoder takes (R19), the
decoder's registers (R17, R29), the configuration (R20) and the trace (R31). -/

namespace Sys2Proof.Machine

/-! ### The bytes the decoder takes (R19) -/

/-- The bytes of `d` that `t` holds neither in its buffer nor in a frame it put out are counted. -/
def CountsDropped (d t : Decoder) : Prop :=
  ∃ dropped : Nat,
    d.rxBuf.length + d.out.flatten.length = t.rxBuf.length + t.out.flatten.length + dropped ∧
    t.dropCount = d.dropCount + BitVec.ofNat 32 dropped

theorem CountsDropped.pass {d e t : Decoder} (hp : Pass d e) (h : CountsDropped e t) : CountsDropped d t := by
  obtain ⟨dropped, hlen, hcount⟩ := h
  have hshorter := hp.shorter
  cases hp with
  | drop hne _ =>
    refine ⟨dropped + 1, ?_, ?_⟩
    · simp only [Decoder.dropOne_rxBuf, Decoder.dropOne_out, List.length_drop] at hlen hshorter
      omega
    · rw [hcount, Decoder.dropOne_dropCount, BitVec.add_assoc, ← BitVec.ofNat_add_ofNat, BitVec.add_comm 1]
      rfl
  | accept n hm =>
    obtain ⟨-, -, -, hn, -⟩ := microStep_accept hm
    refine ⟨dropped, ?_, hcount⟩
    simp only [Decoder.accept_rxBuf, Decoder.accept_out, List.flatten_append, List.flatten_singleton,
      List.length_append, List.length_drop, List.length_take] at hlen
    omega

theorem decodeAll_countsDropped (d : Decoder) : CountsDropped d (decodeAll d) :=
  decodeAll_induction (P := CountsDropped) (fun _ _ => ⟨0, by simp, by simp⟩) (fun _ _ _ => CountsDropped.pass) d

/-- Settles O19: every pass either drops one byte and counts it or moves a frame's bytes to the output. -/
theorem decoderCountsEveryDroppedByte : Obligations.DecoderCountsEveryDroppedByte := by
  intro buf count
  obtain ⟨dropped, hlen, hcount⟩ := decodeAll_countsDropped { rxBuf := buf, dropCount := count, out := [] }
  exact ⟨dropped, by simpa using hlen, hcount⟩

/-! ### What instructions leave as it is -/

/-- A send is never reported as `ChecksumMismatch` or `ConfigError`, an OPEN only as `OK` or `ConfigError`
(60_exceptions.md R106). -/
def Output.statusFits : Output → Bool
  | .txDone st => st != .checksumMismatch && st != .configError
  | .openDone st => st == .ok || st == .configError
  | .wireTx _ => true
  | .frameOut _ => true
  | .streamEnd => true

/-- Nothing is taken back from the trace, and every new report has a status of its kind. -/
def TraceGrows (s t : State) : Prop :=
  ∃ seg, t.trace = s.trace ++ seg ∧ ∀ e ∈ seg, e.statusFits = true

/-- The session goes on: the block and its configuration are as they were, and the trace only grew. -/
structure KeepsSession (s t : State) : Prop where
  ctrl : t.ctrl = s.ctrl
  cfg : t.cfg = s.cfg
  trace : TraceGrows s t

/-- The session goes on, and the decoder's registers are as they were. -/
structure KeepsBuffer (s t : State) : Prop extends KeepsSession s t where
  dropCount : t.dropCount = s.dropCount
  rxBuf : t.rxBuf = s.rxBuf

theorem TraceGrows.of_eq {s t : State} (h : t.trace = s.trace) : TraceGrows s t :=
  ⟨[], by simp [h], by simp⟩

theorem TraceGrows.trans {s t u : State} (h : TraceGrows s t) (h' : TraceGrows t u) : TraceGrows s u := by
  obtain ⟨seg, ht, hseg⟩ := h
  obtain ⟨seg', hu, hseg'⟩ := h'
  refine ⟨seg ++ seg', by rw [hu, ht, List.append_assoc], ?_⟩
  intro e he
  exact (List.mem_append.1 he).elim (hseg e) (hseg' e)

theorem KeepsSession.refl (s : State) : KeepsSession s s := ⟨rfl, rfl, .of_eq rfl⟩

theorem KeepsSession.trans {s t u : State} (h : KeepsSession s t) (h' : KeepsSession t u) : KeepsSession s u :=
  ⟨h'.ctrl.trans h.ctrl, h'.cfg.trans h.cfg, h.trace.trans h'.trace⟩

theorem KeepsBuffer.refl (s : State) : KeepsBuffer s s := ⟨.refl s, rfl, rfl⟩

theorem KeepsBuffer.trans {s t u : State} (h : KeepsBuffer s t) (h' : KeepsBuffer t u) : KeepsBuffer s u :=
  ⟨h.toKeepsSession.trans h'.toKeepsSession, h'.dropCount.trans h.dropCount, h'.rxBuf.trans h.rxBuf⟩

/-! The named updates of the state -/

theorem keepsBuffer_emit (s : State) {e : Output} (he : e.statusFits = true) : KeepsBuffer s (s.emit e) :=
  ⟨⟨rfl, rfl, [e], rfl, by simp [he]⟩, rfl, rfl⟩

theorem keepsBuffer_endSend (s : State) : KeepsBuffer s s.endSend := ⟨⟨rfl, rfl, .of_eq rfl⟩, rfl, rfl⟩

/-- A send that ends with a report of its own kind. -/
theorem keepsBuffer_endSend_report (s : State) {st : Status} (h : (Output.txDone st).statusFits = true) :
    KeepsBuffer s (s.endSend.report st) :=
  (keepsBuffer_endSend s).trans (keepsBuffer_emit s.endSend h)

theorem keepsBuffer_returning (s : State) (r : OpResult) : KeepsBuffer s (s.returning r) :=
  ⟨⟨rfl, rfl, .of_eq rfl⟩, rfl, rfl⟩

theorem keepsBuffer_holdRequest (s : State) (m : Message) : KeepsBuffer s (s.holdRequest m) :=
  ⟨⟨rfl, rfl, .of_eq rfl⟩, rfl, rfl⟩

theorem keepsBuffer_withBytes (s : State) (l : List Byte) : KeepsBuffer s (s.withBytes l) :=
  ⟨⟨rfl, rfl, .of_eq rfl⟩, rfl, rfl⟩

theorem keepsSession_withDecoder (s : State) (d : Decoder) : KeepsSession s (s.withDecoder d) :=
  ⟨rfl, rfl, .of_eq rfl⟩

theorem statusFits_finalStatus (kind : FailKind) : (Output.txDone (finalStatus kind)).statusFits = true := by
  cases kind <;> rfl

theorem statusFits_msgError (e : MsgError) : (Output.txDone e.status).statusFits = true := by
  cases e <;> rfl

/-! The sequencer's and the comparator's operations -/

theorem txIssue_keepsBuffer {s t : State} (h : txIssue s = .next t) : KeepsBuffer s t := by
  obtain ⟨f, -, rfl⟩ := txIssue_next h
  exact ⟨⟨rfl, rfl, [.wireTx f], rfl, by simp [Output.statusFits]⟩, rfl, rfl⟩

theorem failAttempt_keepsBuffer {kind : FailKind} {s t : State} (h : failAttempt kind s = .next t) :
    KeepsBuffer s t := by
  obtain ⟨c, -, ⟨-, rfl⟩ | ⟨-, rfl⟩⟩ := failAttempt_next h
  · exact ⟨⟨rfl, rfl, .of_eq rfl⟩, rfl, rfl⟩
  · exact keepsBuffer_endSend_report s (statusFits_finalStatus kind)

theorem dispatchFrame_keepsBuffer {f : Frame} {s t : State} (h : dispatchFrame f s = .next t) : KeepsBuffer s t := by
  obtain ⟨-, rfl⟩ | ⟨-, -, rfl⟩ | ⟨-, -, hfail⟩ := dispatchFrame_next h
  · exact keepsBuffer_emit s rfl
  · exact keepsBuffer_endSend_report s rfl
  · exact (keepsBuffer_emit s rfl).trans (failAttempt_keepsBuffer hfail)

/-- A relation between states that one dispatch more extends at its start holds of them all. -/
theorem dispatchAll_induction {R : State → State → Prop} (refl : ∀ s, R s s)
    (cons : ∀ f s t u, dispatchFrame f s = .next t → R t u → R s u) {fs : List Frame} {s u : State}
    (h : dispatchAll fs s = .next u) : R s u := by
  induction fs generalizing s with
  | nil => cases h; exact refl _
  | cons f fs ih =>
    obtain ⟨t, hf, hfs⟩ := andThen_eq_next h
    exact cons _ _ _ _ hf (ih hfs)

theorem dispatchAll_keepsBuffer {fs : List Frame} {s t : State} (h : dispatchAll fs s = .next t) : KeepsBuffer s t :=
  dispatchAll_induction KeepsBuffer.refl (fun _ _ _ _ hf hu => (dispatchFrame_keepsBuffer hf).trans hu) h

/-! ### What each instruction can answer -/

/-- A wire row is ignored by a closed block; an open one with room for a byte appends, decodes and dispatches. -/
theorem receiveRow_next {b : Byte} {rest : List Byte} {s t : State} (h : receiveRow b rest s = .next t) :
    (s.ctrl = .closed ∧ t = s.withBytes rest) ∨
    (s.ctrl = .opened ∧ dispatchAll (decodeAll (s.decoderWith b)).out
      ((s.withBytes rest).withDecoder (decodeAll (s.decoderWith b))) = .next t) := by
  cases hctrl : s.ctrl with
  | closed =>
    rw [receiveRow_closed b rest s hctrl] at h
    cases h
    exact .inl ⟨rfl, rfl⟩
  | opened =>
    by_cases hroom : s.rxBuf.length ≤ 126
    · rw [receiveRow_opened b rest s hctrl hroom] at h
      exact .inr ⟨rfl, h⟩
    · have hfull : rxCapacity ≤ s.rxBuf.length := by unfold rxCapacity; omega
      simp [receiveRow, receiveByte, hctrl, hfull] at h

/-- A request is refused by report, held, or issued (43_echo_collision.md R88-R90). -/
theorem exec_txReq_next {m : Message} {s t : State} (h : exec (.txReq m) s = .next t) :
    (s.ctrl = .closed ∧ t = s.report .closed) ∨
    (s.ctrl = .opened ∧ ((t = s.holdRequest m) ∨ (∃ e, t = s.report (MsgError.status e)) ∨
      (messageError m = none ∧
        txIssue { s with curFrame := some (frameOfMessage m), attempt := 0, lastFail := none } = .next t))) := by
  have h : execTxReq m s = .next t := h
  unfold execTxReq at h
  split at h
  · cases h; exact .inl ⟨‹_›, rfl⟩
  · refine .inr ⟨‹_›, ?_⟩
    split at h
    · cases h; exact .inl rfl
    · split at h
      · cases h; exact .inr (.inl ⟨_, rfl⟩)
      · exact .inr (.inr ⟨‹_›, h⟩)

/-- A micro-operation of the decoder run on its own answers next on its Operands line only (log entry 5). -/
theorem guarded_next {p : Prop} [Decidable p] {u t : State} {r : Refusal}
    (h : (if p then .next u else .refused r : Result) = .next t) : t = u := by
  split at h <;> cases h
  rfl

theorem exec_txCancel_next {s t : State} (h : exec .txCancel s = .next t) :
    t = s ∨ (s.ctrl = .opened ∧ t = s.endSend.report .cancelled) := by
  have h : execTxCancel s = .next t := h
  unfold execTxCancel at h
  split at h <;> cases h
  · exact .inr ⟨by simp_all, rfl⟩
  · exact .inl rfl

theorem exec_echoTimeout_next {s t : State} (h : exec .echoTimeout s = .next t) :
    t = s ∨ (s.ctrl = .opened ∧ s.txPhase = .waitEcho ∧ failAttempt .timeout s = .next t) := by
  have h : execEchoTimeout s = .next t := h
  unfold execEchoTimeout at h
  split at h
  · obtain ⟨hopen, hphase⟩ := ‹_ ∧ _›
    exact .inr ⟨hopen, hphase, h⟩
  · cases h; exact .inl rfl

theorem exec_backoffDone_next {s t : State} (h : exec .backoffDone s = .next t) :
    t = s ∨ (s.ctrl = .opened ∧ s.txPhase = .backoff ∧ txIssue s = .next t) := by
  have h : execBackoffDone s = .next t := h
  unfold execBackoffDone at h
  split at h
  · obtain ⟨hopen, hphase⟩ := ‹_ ∧ _›
    exact .inr ⟨hopen, hphase, h⟩
  · cases h; exact .inl rfl

/-- OPEN is answered by a closed block only (44_control.md R101, R104). -/
theorem exec_openBlock_next {c : Config} {s t : State} (h : exec (.openBlock c) s = .next t) :
    s.ctrl = .closed ∧
      ((configValid c = true ∧ t = s.openWith c) ∨ t = s.emit (.openDone .configError)) := by
  cases hctrl : s.ctrl with
  | opened => simp [exec, execOpen, hctrl] at h
  | closed =>
    rw [exec_openBlock_of_closed c hctrl] at h
    split at h <;> cases h
    · exact ⟨rfl, .inl ⟨‹_›, rfl⟩⟩
    · exact ⟨rfl, .inr rfl⟩

theorem exec_closeBlock_next {s t : State} (h : exec .closeBlock s = .next t) :
    t = s ∨ t = s.shutdown .closed := by
  have h : execClose s = .next t := h
  unfold execClose at h
  split at h <;> cases h
  · exact .inl rfl
  · exact .inr rfl

theorem exec_transportErr_next {s t : State} (h : exec .transportErr s = .next t) :
    t = s ∨ t = s.shutdown .transportError := by
  have h : execTransportErr s = .next t := h
  unfold execTransportErr at h
  split at h <;> cases h
  · exact .inl rfl
  · exact .inr rfl

/-! ### What each instruction leaves as it is -/

theorem receiveRow_keepsSession {b : Byte} {rest : List Byte} {s t : State} (h : receiveRow b rest s = .next t) :
    KeepsSession s t := by
  have hbytes := (keepsBuffer_withBytes s rest).toKeepsSession
  obtain ⟨-, rfl⟩ | ⟨-, hall⟩ := receiveRow_next h
  · exact hbytes
  · exact (hbytes.trans (keepsSession_withDecoder _ _)).trans (dispatchAll_keepsBuffer hall).toKeepsSession

theorem exec_txReq_keepsBuffer {m : Message} {s t : State} (h : exec (.txReq m) s = .next t) : KeepsBuffer s t := by
  obtain ⟨-, rfl⟩ | ⟨-, rfl | ⟨e, rfl⟩ | ⟨-, hissue⟩⟩ := exec_txReq_next h
  · exact keepsBuffer_emit s rfl
  · exact keepsBuffer_holdRequest s m
  · exact keepsBuffer_emit s (statusFits_msgError e)
  · obtain ⟨⟨hctrl, hcfg, htrace⟩, hcount, hbuf⟩ := txIssue_keepsBuffer hissue
    exact ⟨⟨hctrl, hcfg, htrace⟩, hcount, hbuf⟩

theorem exec_txCancel_keepsBuffer {s t : State} (h : exec .txCancel s = .next t) : KeepsBuffer s t := by
  obtain rfl | ⟨-, rfl⟩ := exec_txCancel_next h
  · exact .refl _
  · exact keepsBuffer_endSend_report s rfl

theorem exec_echoTimeout_keepsBuffer {s t : State} (h : exec .echoTimeout s = .next t) : KeepsBuffer s t := by
  obtain rfl | ⟨-, -, hfail⟩ := exec_echoTimeout_next h
  · exact .refl _
  · exact failAttempt_keepsBuffer hfail

theorem exec_backoffDone_keepsBuffer {s t : State} (h : exec .backoffDone s = .next t) : KeepsBuffer s t := by
  obtain rfl | ⟨-, -, hissue⟩ := exec_backoffDone_next h
  · exact .refl _
  · exact txIssue_keepsBuffer hissue

theorem exec_dWait_keepsBuffer {s t : State} (h : exec .dWait s = .next t) : KeepsBuffer s t := by
  obtain rfl := guarded_next h
  exact .refl _

/-- Every instruction that completes keeps the session, opens a closed block, or ends the session. -/
theorem exec_keepsSession_or {i : Instr} {s t : State} (h : exec i s = .next t) :
    KeepsSession s t ∨ (s.ctrl = .closed ∧ ∃ c, t = s.openWith c) ∨ t = s.shutdown .closed ∨
      t = s.shutdown .transportError := by
  cases i with
  | frameC2 | frameC4 | frameC6 | frameVar => exact .inl (receiveRow_keepsSession h)
  | dataByte | rxByte => exact .inl (receiveRow_keepsSession (rest := []) h)
  | txReq => exact .inl (exec_txReq_keepsBuffer h).toKeepsSession
  | txCancel => exact .inl (exec_txCancel_keepsBuffer h).toKeepsSession
  | echoTimeout => exact .inl (exec_echoTimeout_keepsBuffer h).toKeepsSession
  | backoffDone => exact .inl (exec_backoffDone_keepsBuffer h).toKeepsSession
  | openBlock c =>
    obtain ⟨hclosed, ⟨-, rfl⟩ | rfl⟩ := exec_openBlock_next h
    · exact .inr (.inl ⟨hclosed, c, rfl⟩)
    · exact .inl (keepsBuffer_emit s rfl).toKeepsSession
  | closeBlock =>
    obtain rfl | rfl := exec_closeBlock_next h
    · exact .inl (.refl _)
    · exact .inr (.inr (.inl rfl))
  | transportErr =>
    obtain rfl | rfl := exec_transportErr_next h
    · exact .inl (.refl _)
    · exact .inr (.inr (.inr rfl))
  | reservedEvent => cases h
  | cksGen | cksChk | msgBuild | encodeMsg | frameMsg =>
    cases h
    exact .inl (keepsBuffer_returning s _).toKeepsSession
  | decodeLoop =>
    cases h
    exact .inl ((keepsSession_withDecoder s _).trans (keepsBuffer_returning _ _).toKeepsSession)
  | dAccept =>
    obtain rfl := guarded_next h
    exact .inl ((keepsSession_withDecoder s _).trans (keepsBuffer_returning _ _).toKeepsSession)
  | dNoise | dResync | dBadLen =>
    obtain rfl := guarded_next h
    exact .inl (keepsSession_withDecoder s _)
  | dWait => exact .inl (exec_dWait_keepsBuffer h).toKeepsSession
  | txIssue => exact .inl (txIssue_keepsBuffer h).toKeepsSession
  | dispatch => exact .inl (dispatchFrame_keepsBuffer h).toKeepsSession
  | failAttempt => exact .inl (failAttempt_keepsBuffer h).toKeepsSession

theorem traceGrows_shutdown (s : State) {st : Status} (h : (Output.txDone st).statusFits = true) :
    TraceGrows s (s.shutdown st) := by
  have hend : Output.streamEnd.statusFits = true := rfl
  refine ⟨_, State.shutdown_trace s st, ?_⟩
  split <;> simp [h, hend]

theorem exec_traceGrows {i : Instr} {s t : State} (h : exec i s = .next t) : TraceGrows s t := by
  obtain hkeeps | ⟨-, c, rfl⟩ | rfl | rfl := exec_keepsSession_or h
  · exact hkeeps.trace
  · exact ⟨[.openDone .ok], rfl, by simp [Output.statusFits]⟩
  · exact traceGrows_shutdown s rfl
  · exact traceGrows_shutdown s rfl

/-- Settles O55: whatever an instruction does to the session, each output it adds has a status of its kind. -/
theorem traceGrowsWithProperStatuses : Obligations.TraceGrowsWithProperStatuses := by
  intro i s t h
  obtain ⟨seg, htrace, hfits⟩ := exec_traceGrows h
  refine ⟨seg, htrace, fun hmem => ?_, fun hmem => ?_, fun st hmem => ?_⟩
  · exact absurd (hfits _ hmem) (by decide)
  · exact absurd (hfits _ hmem) (by decide)
  · simpa [Output.statusFits] using hfits _ hmem

/-- Settles O58: only OPEN and the ends of a session write `cfg`, and those do not start and end open. -/
theorem configFixedWhileOpen : Obligations.ConfigFixedWhileOpen := by
  intro i s t h hs ht
  obtain hkeeps | ⟨hclosed, -⟩ | rfl | rfl := exec_keepsSession_or h
  · exact hkeeps.cfg
  · rw [hs] at hclosed; cases hclosed
  · cases ht
  · cases ht

/-- Settles O59, instruction by instruction: those of the sequencer and of the functional units keep the decoder's
registers. -/
theorem onlyTheDecoderCounts : Obligations.OnlyTheDecoderCounts := by
  intro i s t h
  have keeps : KeepsBuffer s t → t.dropCount = s.dropCount ∧ t.rxBuf = s.rxBuf :=
    fun hk => ⟨hk.dropCount, hk.rxBuf⟩
  cases i with
  | txReq => exact keeps (exec_txReq_keepsBuffer h)
  | txCancel => exact keeps (exec_txCancel_keepsBuffer h)
  | echoTimeout => exact keeps (exec_echoTimeout_keepsBuffer h)
  | backoffDone => exact keeps (exec_backoffDone_keepsBuffer h)
  | cksGen | cksChk | msgBuild | encodeMsg | frameMsg => cases h; exact ⟨rfl, rfl⟩
  | dWait => exact keeps (exec_dWait_keepsBuffer h)
  | txIssue => exact keeps (txIssue_keepsBuffer h)
  | dispatch => exact keeps (dispatchFrame_keepsBuffer h)
  | failAttempt => exact keeps (failAttempt_keepsBuffer h)
  | closeBlock => obtain rfl | rfl := exec_closeBlock_next h <;> simp
  | transportErr => obtain rfl | rfl := exec_transportErr_next h <;> simp
  | frameC2 | frameC4 | frameC6 | frameVar | dataByte | rxByte | openBlock | reservedEvent | decodeLoop | dNoise
  | dAccept | dResync | dBadLen => trivial

end Sys2Proof.Machine
end

section
/-! The obligations of 10_state.md about its invariants: power-on and every step (R26), and the flags (R27). -/

namespace Sys2Proof.Machine

/-! ### The invariant in parts: the session, the buffer and the send -/

/-- R26 item 1 without the registers of the send, and R20, R29: a closed block holds no configuration and no bytes, an
open one a configuration that meets the required conditions. -/
def State.SessionOk (s : State) : Prop :=
  match s.ctrl with
  | .closed => s.cfg = none ∧ s.rxBuf = []
  | .opened => ∃ c, s.cfg = some c ∧ configRequired c = true

/-- What R24-R26 say of the registers of the send, phase by phase. -/
def State.SendOk (s : State) : Prop :=
  match s.txPhase with
  | .idle => s.pending = none ∧ s.curFrame = none ∧ s.attempt = 0 ∧ s.lastFail = none
  | .waitEcho => ∃ c f, s.cfg = some c ∧ s.curFrame = some f ∧ s.pending = some f ∧ isFrame f = true ∧
      1 ≤ s.attempt.toNat ∧ s.attempt.toNat ≤ c.maxAttempts.toNat ∧ (s.lastFail = none ↔ s.attempt = 1)
  | .backoff => ∃ c f, s.cfg = some c ∧ s.curFrame = some f ∧ s.pending = none ∧ isFrame f = true ∧
      1 ≤ s.attempt.toNat ∧ s.attempt.toNat < c.maxAttempts.toNat ∧ s.lastFail ≠ none

/-- The decoder waits exactly on the buffers of R26 item 6. -/
theorem microStep_eq_wait_iff (buf : List Byte) :
    microStep buf = .wait ↔ buf = [] ∨
      (isOpcode (buf.headD 0) = true ∧
        ((expLen buf = .needMore ∧ buf.length = 1) ∨ ∃ n, expLen buf = .len n ∧ buf.length < n)) := by
  cases buf with
  | nil => simp [microStep]
  | cons op rest =>
    cases hop : isOpcode op with
    | false => simp [microStep, hop]
    | true =>
      cases hlen : expLen (op :: rest) with
      | needMore =>
        obtain ⟨rfl, -⟩ := expLen_needMore op rest hlen
        simp [microStep, hop, hlen]
      | badLen => simp [microStep, hop, hlen]
      | len n =>
        simp only [microStep, hop, hlen, if_true]
        split
        · simp_all
        · split <;> simp_all

theorem length_le_of_microStep_wait {buf : List Byte} (h : microStep buf = .wait) : buf.length ≤ 126 := by
  obtain rfl | ⟨-, ⟨-, hone⟩ | ⟨n, hn, hlt⟩⟩ := (microStep_eq_wait_iff buf).1 h
  · simp
  · omega
  · have := (expLen_range buf n hn).2
    omega

theorem Inv.sessionOk {s : State} (h : Inv s) : s.SessionOk := by
  unfold State.SessionOk
  split
  · obtain ⟨hcfg, hbuf, -⟩ := h.closedEmpty ‹_›
    exact ⟨hcfg, hbuf⟩
  · exact h.openConfigured ‹_›

theorem Inv.microStep_wait {s : State} (h : Inv s) : microStep s.rxBuf = .wait :=
  (microStep_eq_wait_iff _).2 h.bufferWaits

theorem Inv.sendOk {s : State} (h : Inv s) : s.SendOk := by
  unfold State.SendOk
  split
  next hidle =>
    obtain ⟨hattempt, hfail⟩ := h.idleClear hidle
    have hpending := h.armedIffWaiting
    have hcur := h.currentIffBusy
    simp [hidle] at hpending hcur
    exact ⟨hpending, hcur, hattempt, hfail⟩
  next hwait =>
    obtain ⟨c, hcfg, hlow, hhigh⟩ := h.attemptInRange (by simp [hwait])
    obtain ⟨f, hf⟩ := Option.isSome_iff_exists.1 (h.currentIffBusy.2 (by simp [hwait]))
    exact ⟨c, f, hcfg, hf, (h.armedWithCurrent hwait).trans hf, h.currentIsFrame f hf, hlow, hhigh,
      h.firstAttempt hwait⟩
  next hback =>
    obtain ⟨⟨c, hcfg, hnext⟩, hfail⟩ := h.backoffHasNext hback
    obtain ⟨-, -, hlow, -⟩ := h.attemptInRange (by simp [hback])
    obtain ⟨f, hf⟩ := Option.isSome_iff_exists.1 (h.currentIffBusy.2 (by simp [hback]))
    have hpending := h.armedIffWaiting
    simp [hback] at hpending
    exact ⟨c, f, hcfg, hf, hpending, h.currentIsFrame f hf, hlow, hnext, hfail⟩

theorem State.sendOk_idle {s : State} (h : s.txPhase = .idle) :
    s.SendOk ↔ s.pending = none ∧ s.curFrame = none ∧ s.attempt = 0 ∧ s.lastFail = none := by
  simp [State.SendOk, h]

theorem State.sendOk_waitEcho {s : State} (h : s.txPhase = .waitEcho) :
    s.SendOk ↔ ∃ c f, s.cfg = some c ∧ s.curFrame = some f ∧ s.pending = some f ∧ isFrame f = true ∧
      1 ≤ s.attempt.toNat ∧ s.attempt.toNat ≤ c.maxAttempts.toNat ∧ (s.lastFail = none ↔ s.attempt = 1) := by
  simp [State.SendOk, h]

theorem State.sendOk_backoff {s : State} (h : s.txPhase = .backoff) :
    s.SendOk ↔ ∃ c f, s.cfg = some c ∧ s.curFrame = some f ∧ s.pending = none ∧ isFrame f = true ∧
      1 ≤ s.attempt.toNat ∧ s.attempt.toNat < c.maxAttempts.toNat ∧ s.lastFail ≠ none := by
  simp [State.SendOk, h]

/-- The three parts are the whole invariant. -/
theorem inv_of_parts {s : State} (hsession : s.SessionOk) (hwait : microStep s.rxBuf = .wait) (hsend : s.SendOk) :
    Inv s := by
  have hbuf := (microStep_eq_wait_iff _).1 hwait
  have hroom := length_le_of_microStep_wait hwait
  have hopened : s.ctrl = .opened → ∃ c, s.cfg = some c ∧ configRequired c = true := by
    intro hctrl
    simpa [State.SessionOk, hctrl] using hsession
  have hclosed : s.ctrl = .closed → s.cfg = none ∧ s.rxBuf = [] := by
    intro hctrl
    simpa [State.SessionOk, hctrl] using hsession
  cases hphase : s.txPhase with
  | idle =>
    obtain ⟨hpending, hcur, hattempt, hfail⟩ := (State.sendOk_idle hphase).1 hsend
    exact {
      closedEmpty := fun hctrl =>
        have ⟨hcfg, hempty⟩ := hclosed hctrl
        ⟨hcfg, hempty, hphase, hpending, hcur, hattempt, hfail⟩
      openConfigured := hopened
      armedIffWaiting := by simp [hphase, hpending]
      armedWithCurrent := by simp [hphase]
      currentIffBusy := by simp [hphase, hcur]
      attemptInRange := by simp [hphase]
      backoffHasNext := by simp [hphase]
      bufferWaits := hbuf
      bufferRoom := hroom
      currentIsFrame := by simp [hcur]
      idleClear := fun _ => ⟨hattempt, hfail⟩
      firstAttempt := by simp [hphase] }
  | waitEcho =>
    obtain ⟨c, f, hcfg, hcur, hpending, hframe, hlow, hhigh, hfirst⟩ := (State.sendOk_waitEcho hphase).1 hsend
    exact {
      closedEmpty := fun hctrl => by simp [hclosed hctrl] at hcfg
      openConfigured := hopened
      armedIffWaiting := by simp [hphase, hpending]
      armedWithCurrent := fun _ => hpending.trans hcur.symm
      currentIffBusy := by simp [hphase, hcur]
      attemptInRange := fun _ => ⟨c, hcfg, hlow, hhigh⟩
      backoffHasNext := by simp [hphase]
      bufferWaits := hbuf
      bufferRoom := hroom
      currentIsFrame := by simp [hcur, hframe]
      idleClear := by simp [hphase]
      firstAttempt := fun _ => hfirst }
  | backoff =>
    obtain ⟨c, f, hcfg, hcur, hpending, hframe, hlow, hnext, hfail⟩ := (State.sendOk_backoff hphase).1 hsend
    exact {
      closedEmpty := fun hctrl => by simp [hclosed hctrl] at hcfg
      openConfigured := hopened
      armedIffWaiting := by simp [hphase, hpending]
      armedWithCurrent := by simp [hphase]
      currentIffBusy := by simp [hphase, hcur]
      attemptInRange := fun _ => ⟨c, hcfg, hlow, hnext.le⟩
      backoffHasNext := fun _ => ⟨⟨c, hcfg, hnext⟩, hfail⟩
      bufferWaits := hbuf
      bufferRoom := hroom
      currentIsFrame := by simp [hcur, hframe]
      idleClear := by simp [hphase]
      firstAttempt := by simp [hphase] }

/-! ### The named updates -/

theorem State.SendOk.emit {s : State} (h : s.SendOk) (e : Output) : (s.emit e).SendOk := h
theorem State.SendOk.withDecoder {s : State} (h : s.SendOk) (d : Decoder) : (s.withDecoder d).SendOk := h

theorem sendOk_endSend_report (s : State) (st : Status) : (s.endSend.report st).SendOk := ⟨rfl, rfl, rfl, rfl⟩

theorem Inv.withInputs {s : State} (h : Inv s) (l : List Input) : Inv { s with inputs := l } :=
  inv_of_parts h.sessionOk h.microStep_wait h.sendOk

theorem Inv.emit {s : State} (h : Inv s) (e : Output) : Inv (s.emit e) :=
  inv_of_parts h.sessionOk h.microStep_wait h.sendOk

theorem inv_shutdown (s : State) (st : Status) : Inv (s.shutdown st) :=
  inv_of_parts ⟨rfl, rfl⟩ rfl ⟨rfl, rfl, rfl, rfl⟩

theorem inv_openWith (s : State) {c : Config} (h : configValid c = true) : Inv (s.openWith c) :=
  inv_of_parts ⟨c, rfl, configRequired_of_configValid h⟩ rfl ⟨rfl, rfl, rfl, rfl⟩

/-- While the block stays open, the invariant is kept by whoever leaves a waiting decoder and a consistent send. -/
theorem Inv.of_keepsSession {s t : State} (h : Inv s) (hopen : s.ctrl = .opened) (hkeeps : KeepsSession s t)
    (hwait : microStep t.rxBuf = .wait) (hsend : t.SendOk) : Inv t := by
  have hsession : t.SessionOk := by
    simpa [State.SessionOk, hkeeps.ctrl, hopen, hkeeps.cfg] using h.openConfigured hopen
  exact inv_of_parts hsession hwait hsend

theorem Inv.of_keepsBuffer {s t : State} (h : Inv s) (hopen : s.ctrl = .opened) (hkeeps : KeepsBuffer s t)
    (hsend : t.SendOk) : Inv t :=
  h.of_keepsSession hopen hkeeps.toKeepsSession (hkeeps.rxBuf ▸ h.microStep_wait) hsend

/-! ### The sequencer's and the comparator's operations keep the send consistent -/

theorem failAttempt_sendOk {kind : FailKind} {s t : State} (h : s.SendOk) (hphase : s.txPhase = .waitEcho)
    (hf : failAttempt kind s = .next t) : t.SendOk := by
  obtain ⟨c, f, hcfg, hcur, -, hframe, hlow, -, -⟩ := (State.sendOk_waitEcho hphase).1 h
  obtain ⟨c', hcfg', ⟨hlt, rfl⟩ | ⟨-, rfl⟩⟩ := failAttempt_next hf
  · obtain rfl : c' = c := Option.some.inj (hcfg'.symm.trans hcfg)
    exact ⟨c', f, hcfg, hcur, rfl, hframe, hlow, hlt, by simp⟩
  · exact sendOk_endSend_report s _

theorem dispatchFrame_sendOk {f : Frame} {s t : State} (h : s.SendOk) (hf : dispatchFrame f s = .next t) :
    t.SendOk := by
  obtain ⟨-, rfl⟩ | ⟨-, -, rfl⟩ | ⟨hphase, -, hfail⟩ := dispatchFrame_next hf
  · exact h.emit _
  · exact sendOk_endSend_report s _
  · exact failAttempt_sendOk (h.emit _) hphase hfail

theorem dispatchAll_sendOk {fs : List Frame} {s t : State} (h : s.SendOk) (hf : dispatchAll fs s = .next t) :
    t.SendOk :=
  dispatchAll_induction (R := fun s t => s.SendOk → t.SendOk) (fun _ h => h)
    (fun _ _ _ _ hf hrest h => hrest (dispatchFrame_sendOk h hf)) hf h

/-- The next attempt of a send in BACKOFF is counted within `maxAttempts`, and not as the first. -/
theorem txIssue_sendOk_of_backoff {s t : State} (h : s.SendOk) (hphase : s.txPhase = .backoff)
    (hissue : txIssue s = .next t) : t.SendOk := by
  obtain ⟨c, f, hcfg, hcur, -, hframe, hlow, hnext, hfail⟩ := (State.sendOk_backoff hphase).1 h
  obtain ⟨f', hcur', rfl⟩ := txIssue_next hissue
  obtain rfl : f' = f := Option.some.inj (hcur'.symm.trans hcur)
  have hcount : (s.attempt + 1).toNat = s.attempt.toNat + 1 := by bv_omega
  have hsecond : s.attempt + 1 ≠ 1 := by bv_omega
  have hlow' : 1 ≤ (s.attempt + 1).toNat := by omega
  have hhigh' : (s.attempt + 1).toNat ≤ c.maxAttempts.toNat := by omega
  exact ⟨c, f', hcfg, hcur, rfl, hframe, hlow', hhigh', iff_of_false hfail hsecond⟩

/-! ### ENCODE gives valid frames -/

theorem messageError_eq_none_iff (m : Message) :
    messageError m = none ↔ isOpcode m.op = true ∧ payloadNeed m = some m.payload.length := by
  unfold messageError
  split
  · split <;> simp_all
  · simp_all

/-- The generated checksum completes a list to 0xFF (40_checksum.md R70). -/
theorem xorBytes_append_checksumOf (pre : List Byte) : xorBytes (pre ++ [checksumOf pre]) = 0xFF := by
  rw [xorBytes_append, xorBytes_cons, xorBytes_nil, checksumOf, not8]
  generalize xorBytes pre = x
  rw [BitVec.xor_comm 0xFF]
  simp

/-- A valid message's frame has the length its head gives (41_encoder.md R73). -/
theorem expLen_frameOfMessage {m : Message} (h : payloadNeed m = some m.payload.length) :
    expLen (frameOfMessage m) = .len (frameOfMessage m).length := by
  cases hclass : lengthClass m.op with
  | c2 | c4 | c6 =>
    simp [payloadNeed, hclass] at h
    simp [frameOfMessage, messageBytes, expLen, hclass, ← h]
  | var =>
    simp only [payloadNeed, hclass, Option.ite_none_right_eq_some, Option.some.injEq] at h
    obtain ⟨hlegal, hlen⟩ := h
    have := (legalLen_iff _).1 hlegal
    simp [frameOfMessage, messageBytes, expLen, hclass, hlegal]
    omega

theorem isFrame_frameOfMessage {m : Message} (h : messageError m = none) : isFrame (frameOfMessage m) = true := by
  obtain ⟨hop, hneed⟩ := (messageError_eq_none_iff m).1 h
  exact (isFrame_iff _).2 ⟨hop, expLen_frameOfMessage hneed, xorBytes_append_checksumOf _⟩

/-! ### Every event keeps the invariant -/

theorem receiveRow_inv {b : Byte} {rest : List Byte} {s t : State} (hs : Inv s) (h : receiveRow b rest s = .next t) :
    Inv t := by
  obtain ⟨-, rfl⟩ | ⟨hopen, hall⟩ := receiveRow_next h
  · exact hs.withInputs _
  · have hwait : microStep t.rxBuf = .wait := by
      rw [(dispatchAll_keepsBuffer hall).rxBuf]
      exact decodeAll_waits _
    have hsend : t.SendOk := dispatchAll_sendOk ((hs.withInputs _).sendOk.withDecoder _) hall
    exact hs.of_keepsSession hopen (receiveRow_keepsSession h) hwait hsend

theorem exec_txReq_inv {m : Message} {s t : State} (hs : Inv s) (h : exec (.txReq m) s = .next t) : Inv t := by
  obtain ⟨-, rfl⟩ | ⟨hopen, rfl | ⟨e, rfl⟩ | ⟨hvalid, hissue⟩⟩ := exec_txReq_next h
  · exact hs.emit _
  · exact hs.withInputs _
  · exact hs.emit _
  · obtain ⟨f, hf, rfl⟩ := txIssue_next hissue
    cases hf
    obtain ⟨c, hcfg, hreq⟩ := hs.openConfigured hopen
    obtain ⟨hattempts, -⟩ := (configRequired_iff c).1 hreq
    refine hs.of_keepsBuffer hopen (exec_txReq_keepsBuffer h) ?_
    exact ⟨c, frameOfMessage m, hcfg, rfl, rfl, isFrame_frameOfMessage hvalid, by simp, by simpa using hattempts,
      by simp⟩

theorem exec_inv {i : Instr} {s t : State} (hi : i.isInternal = false) (hs : Inv s) (h : exec i s = .next t) :
    Inv t := by
  cases i with
  | frameC2 | frameC4 | frameC6 | frameVar => exact receiveRow_inv hs h
  | dataByte | rxByte => exact receiveRow_inv (rest := []) hs h
  | txReq => exact exec_txReq_inv hs h
  | txCancel =>
    obtain rfl | ⟨hopen, rfl⟩ := exec_txCancel_next h
    · exact hs
    · exact hs.of_keepsBuffer hopen (exec_txCancel_keepsBuffer h) (sendOk_endSend_report s _)
  | echoTimeout =>
    obtain rfl | ⟨hopen, hphase, hfail⟩ := exec_echoTimeout_next h
    · exact hs
    · exact hs.of_keepsBuffer hopen (failAttempt_keepsBuffer hfail) (failAttempt_sendOk hs.sendOk hphase hfail)
  | backoffDone =>
    obtain rfl | ⟨hopen, hphase, hissue⟩ := exec_backoffDone_next h
    · exact hs
    · exact hs.of_keepsBuffer hopen (txIssue_keepsBuffer hissue) (txIssue_sendOk_of_backoff hs.sendOk hphase hissue)
  | openBlock =>
    obtain ⟨-, ⟨hvalid, rfl⟩ | rfl⟩ := exec_openBlock_next h
    · exact inv_openWith s hvalid
    · exact hs.emit _
  | closeBlock =>
    obtain rfl | rfl := exec_closeBlock_next h
    · exact hs
    · exact inv_shutdown s _
  | transportErr =>
    obtain rfl | rfl := exec_transportErr_next h
    · exact hs
    · exact inv_shutdown s _
  | reservedEvent => cases h
  | cksGen | cksChk | msgBuild | encodeMsg | frameMsg | decodeLoop | dNoise | dWait | dAccept | dResync | dBadLen
  | txIssue | dispatch | failAttempt => cases hi

/-! ### The step -/

/-- No event word and no wire byte decodes to an internal operation (opcode_table.json, "no event word"). -/
theorem decodeInput_not_internal (inp : Input) : (decodeInput inp).1.isInternal = false := by
  cases inp with
  | event w m c =>
    simp only [decodeInput, decodeEvent]
    split
    · rfl
    · split
      · rfl
      · split <;> rfl
  | wire b rest =>
    simp only [decodeInput, decodeWire]
    split
    · split
      · rfl
      · rfl
      · rfl
      · split
        · split <;> rfl
        · rfl
      · rfl
    · rfl

/-- Settles O50: a step runs an event on a state that differs in its coming inputs only, and every event keeps the
three parts of the invariant. -/
theorem stepKeepsInvariant : Obligations.StepKeepsInvariant := by
  intro s t hs h
  obtain ⟨-, hidle⟩ | ⟨before, inp, after, -, -, hstep⟩ := step_cases s
  · rw [hidle] at h
    cases h
    exact hs
  · exact exec_inv (decodeInput_not_internal inp) (hs.withInputs _) (hstep ▸ h)

/-- Settles O49: at power-on the block is closed and empty, the decoder waits, and no send is in progress. -/
theorem powerOnMeetsInvariant : Obligations.PowerOnMeetsInvariant :=
  inv_of_parts ⟨rfl, rfl⟩ rfl ⟨rfl, rfl, rfl, rfl⟩

/-! ### The flags -/

@[simp] theorem State.echoArmed_eq_true (s : State) : s.echoArmed = true ↔ s.pending ≠ none := by
  simp [State.echoArmed, Option.isSome_iff_ne_none]

/-- A send in progress needs an open block and a current frame (R26 items 1 and 3). -/
theorem Inv.opened_of_busy {s : State} (h : Inv s) (hbusy : s.txPhase ≠ .idle) :
    s.ctrl = .opened ∧ s.curFrame ≠ none := by
  refine ⟨?_, Option.isSome_iff_ne_none.1 (h.currentIffBusy.2 hbusy)⟩
  cases hctrl : s.ctrl with
  | opened => rfl
  | closed =>
    obtain ⟨-, -, hidle, -⟩ := h.closedEmpty hctrl
    exact absurd hidle hbusy

theorem Inv.pending_ne_none_iff {s : State} (h : Inv s) : s.pending ≠ none ↔ s.txPhase = .waitEcho :=
  Option.isSome_iff_ne_none.symm.trans h.armedIffWaiting

/-- Settles O53: each clause is R26 item 1, 2 or 3 read through the port's equations. -/
theorem statusPortShowsState : Obligations.StatusPortShowsState := by
  intro s
  have hbusy : s.statusPort.busy = true ↔ s.txPhase ≠ .idle := s.busy_eq_true
  have harmed : s.statusPort.echoArmed = true ↔ s.pending ≠ none := s.echoArmed_eq_true
  have hopen : s.statusPort.isOpen = true ↔ s.ctrl = .opened := s.isOpen_eq_true
  refine ⟨hbusy, harmed, hopen, rfl, fun hinv => ?_⟩
  have hwaiting : s.statusPort.echoArmed = true ↔ s.txPhase = .waitEcho := harmed.trans hinv.pending_ne_none_iff
  rw [hbusy, hopen, ← Bool.not_eq_true, hwaiting]
  refine ⟨Iff.rfl, fun hw => by simp [hw], hinv.opened_of_busy, fun hnotIdle hnotWaiting => ?_⟩
  cases hphase : s.txPhase with
  | idle => exact absurd hphase hnotIdle
  | waitEcho => exact absurd hphase hnotWaiting
  | backoff => rfl

end Sys2Proof.Machine
end

section
/-! The obligation of 10_state.md R31: the trace is never read. -/

namespace Sys2Proof.Machine

/-- The state with outputs put before its trace. -/
def State.afterOutputs (s : State) (earlier : List Output) : State := { s with trace := earlier ++ s.trace }

/-- An operation that answers the same whatever was put out before, and keeps what was put out before. -/
def TraceBlind (op : State → Result) : Prop :=
  ∀ (s : State) (earlier : List Output),
    op (s.afterOutputs earlier) = andThen (op s) fun t => .next (t.afterOutputs earlier)

/-- The end of a session as one update (44_control.md R102, R103). -/
theorem State.shutdown_eq (s : State) (st : Status) :
    s.shutdown st = { s.endSend with
      rxBuf := [], cfg := none, ctrl := .closed
      trace := s.trace ++ if s.busy then [.txDone st, .streamEnd] else [.streamEnd] } := by
  unfold State.shutdown
  split <;> simp

section
variable (s : State) (l : List Output)

/-! The registers an operation reads, and the named updates -/

@[simp] theorem State.afterOutputs_ctrl : (s.afterOutputs l).ctrl = s.ctrl := rfl
@[simp] theorem State.afterOutputs_cfg : (s.afterOutputs l).cfg = s.cfg := rfl
@[simp] theorem State.afterOutputs_rxBuf : (s.afterOutputs l).rxBuf = s.rxBuf := rfl
@[simp] theorem State.afterOutputs_txPhase : (s.afterOutputs l).txPhase = s.txPhase := rfl
@[simp] theorem State.afterOutputs_pending : (s.afterOutputs l).pending = s.pending := rfl
@[simp] theorem State.afterOutputs_curFrame : (s.afterOutputs l).curFrame = s.curFrame := rfl
@[simp] theorem State.afterOutputs_attempt : (s.afterOutputs l).attempt = s.attempt := rfl
@[simp] theorem State.afterOutputs_isOpen : (s.afterOutputs l).isOpen = s.isOpen := rfl
@[simp] theorem State.afterOutputs_busy : (s.afterOutputs l).busy = s.busy := rfl
@[simp] theorem State.afterOutputs_requestHeld : (s.afterOutputs l).requestHeld = s.requestHeld := rfl
@[simp] theorem State.afterOutputs_decoder : (s.afterOutputs l).decoder = s.decoder := rfl
@[simp] theorem State.afterOutputs_decoderWith (b : Byte) : (s.afterOutputs l).decoderWith b = s.decoderWith b := rfl

@[simp] theorem State.afterOutputs_emit (e : Output) : (s.afterOutputs l).emit e = (s.emit e).afterOutputs l := by
  simp [State.afterOutputs, State.emit]
@[simp] theorem State.afterOutputs_report (st : Status) :
    (s.afterOutputs l).report st = (s.report st).afterOutputs l :=
  s.afterOutputs_emit l _
@[simp] theorem State.afterOutputs_returning (r : OpResult) :
    (s.afterOutputs l).returning r = (s.returning r).afterOutputs l := rfl
@[simp] theorem State.afterOutputs_withDecoder (d : Decoder) :
    (s.afterOutputs l).withDecoder d = (s.withDecoder d).afterOutputs l := rfl
@[simp] theorem State.afterOutputs_endSend : (s.afterOutputs l).endSend = s.endSend.afterOutputs l := rfl
@[simp] theorem State.afterOutputs_holdRequest (m : Message) :
    (s.afterOutputs l).holdRequest m = (s.holdRequest m).afterOutputs l := rfl
@[simp] theorem State.afterOutputs_withBytes (bytes : List Byte) :
    (s.afterOutputs l).withBytes bytes = (s.withBytes bytes).afterOutputs l := rfl
@[simp] theorem State.afterOutputs_openWith (c : Config) :
    (s.afterOutputs l).openWith c = (s.openWith c).afterOutputs l := by
  simp [State.afterOutputs, State.openWith]
@[simp] theorem State.afterOutputs_shutdown (st : Status) :
    (s.afterOutputs l).shutdown st = (s.shutdown st).afterOutputs l := by
  simp [State.shutdown_eq, State.afterOutputs]

end

/-! ### The shared operations -/

theorem traceBlind_next {f : State → State} (hf : ∀ s l, f (s.afterOutputs l) = (f s).afterOutputs l) :
    TraceBlind fun s => .next (f s) :=
  fun s l => congrArg Host.Outcome.next (hf s l)

theorem traceBlind_refused (r : Refusal) : TraceBlind fun _ => .refused r := fun _ _ => rfl

theorem TraceBlind.ite {p : State → Prop} [DecidablePred p] {a b : State → Result}
    (hp : ∀ s l, p (s.afterOutputs l) ↔ p s) (ha : TraceBlind a) (hb : TraceBlind b) :
    TraceBlind fun s => if p s then a s else b s := by
  intro s l
  by_cases h : p s
  · simp [h, hp, ha s l]
  · simp [h, hp, hb s l]

theorem TraceBlind.andThen {a k : State → Result} (ha : TraceBlind a) (hk : TraceBlind k) :
    TraceBlind fun s => Machine.andThen (a s) k := by
  intro s l
  simp only [ha s l, andThen_assoc, andThen_next]
  congr 1
  funext t
  exact hk t l

theorem txIssue_traceBlind : TraceBlind txIssue := by
  intro s l
  cases h : s.curFrame <;> simp [txIssue, h, State.afterOutputs]

theorem failAttempt_traceBlind (kind : FailKind) : TraceBlind (failAttempt kind) := by
  intro s l
  cases hcfg : s.cfg with
  | none => simp [failAttempt, hcfg]
  | some c =>
    by_cases hlast : s.attempt < c.maxAttempts
    · simp [failAttempt, hcfg, hlast]; rfl
    · simp [failAttempt, hcfg, hlast]

theorem dispatchFrame_traceBlind (f : Frame) : TraceBlind (dispatchFrame f) := by
  have hforward : TraceBlind fun s => .next (s.emit (.frameOut f)) := traceBlind_next fun s l => s.afterOutputs_emit l _
  have hfail : TraceBlind fun s => failAttempt .collision (s.emit (.frameOut f)) :=
    hforward.andThen (failAttempt_traceBlind .collision)
  have hconfirm : TraceBlind fun s => .next (s.endSend.report .ok) := traceBlind_next fun s l => by simp
  exact .ite (fun _ _ => Iff.rfl) (.ite (fun _ _ => Iff.rfl) hconfirm hfail) hforward

theorem dispatchAll_traceBlind (fs : List Frame) : TraceBlind (dispatchAll fs) := by
  induction fs with
  | nil => exact fun _ _ => rfl
  | cons f fs ih => exact (dispatchFrame_traceBlind f).andThen ih

theorem receiveByte_traceBlind (b : Byte) : TraceBlind (receiveByte b) := by
  intro s l
  cases h : s.ctrl with
  | closed => rw [receiveByte_closed b s h, receiveByte_closed b (s.afterOutputs l) h]; rfl
  | opened =>
    by_cases hfull : rxCapacity ≤ s.rxBuf.length
    · simp [receiveByte, h, hfull]
    · simp [receiveByte, h, hfull, dispatchAll_traceBlind _ _ l]

theorem receiveRow_traceBlind (b : Byte) (rest : List Byte) : TraceBlind (receiveRow b rest) :=
  fun s => receiveByte_traceBlind b (s.withBytes rest)

/-! ### The instructions -/

theorem execTxReq_issues {m : Message} {s : State} (hopen : s.ctrl = .opened) (hfree : s.requestHeld = false)
    (hvalid : messageError m = none) :
    execTxReq m s = txIssue { s with curFrame := some (frameOfMessage m), attempt := 0, lastFail := none } := by
  simp [execTxReq, hopen, hfree, hvalid]

theorem execTxReq_traceBlind (m : Message) : TraceBlind (execTxReq m) := by
  intro s l
  cases hctrl : s.ctrl with
  | closed => simp [execTxReq, hctrl]
  | opened =>
    cases hheld : s.requestHeld with
    | true => simp [execTxReq, hctrl, hheld]
    | false =>
      cases hvalid : messageError m with
      | some e => simp [execTxReq, hctrl, hheld, hvalid]
      | none =>
        rw [execTxReq_issues hctrl hheld hvalid, execTxReq_issues (s := s.afterOutputs l) hctrl hheld hvalid]
        exact txIssue_traceBlind { s with curFrame := some (frameOfMessage m), attempt := 0, lastFail := none } l

theorem execOpen_traceBlind (c : Config) : TraceBlind (execOpen c) := by
  intro s l
  cases hctrl : s.ctrl with
  | opened => simp [execOpen, hctrl]
  | closed => by_cases hvalid : configValid c = true <;> simp [execOpen, hctrl, hvalid]

theorem execClose_traceBlind : TraceBlind execClose := by
  intro s l
  cases hctrl : s.ctrl <;> simp [execClose, hctrl]

theorem execTransportErr_traceBlind : TraceBlind execTransportErr := by
  intro s l
  cases hctrl : s.ctrl <;> simp [execTransportErr, hctrl]

theorem exec_traceBlind (i : Instr) : TraceBlind (exec i) := by
  have hsame : TraceBlind .next := fun _ _ => rfl
  cases i with
  | frameC2 | frameC4 | frameC6 | frameVar => exact receiveRow_traceBlind _ _
  | dataByte | rxByte => exact receiveByte_traceBlind _
  | txReq m => exact execTxReq_traceBlind m
  | txCancel => exact .ite (fun _ _ => Iff.rfl) (traceBlind_next fun s l => by simp) hsame
  | echoTimeout => exact .ite (fun _ _ => Iff.rfl) (failAttempt_traceBlind .timeout) hsame
  | backoffDone => exact .ite (fun _ _ => Iff.rfl) txIssue_traceBlind hsame
  | openBlock c => exact execOpen_traceBlind c
  | closeBlock => exact execClose_traceBlind
  | transportErr => exact execTransportErr_traceBlind
  | reservedEvent => exact traceBlind_refused _
  | cksGen | cksChk | msgBuild | encodeMsg | frameMsg | decodeLoop => exact fun _ _ => rfl
  | dWait => exact .ite (fun _ _ => Iff.rfl) hsame (traceBlind_refused _)
  | dNoise | dAccept | dResync | dBadLen =>
    exact .ite (fun _ _ => Iff.rfl) (traceBlind_next fun _ _ => rfl) (traceBlind_refused _)
  | txIssue => exact txIssue_traceBlind
  | dispatch f => exact dispatchFrame_traceBlind f
  | failAttempt kind => exact failAttempt_traceBlind kind

/-- Settles O60: no operation's conditions read the trace, and every update of it appends. -/
theorem traceIsNeverRead : Obligations.TraceIsNeverRead := exec_traceBlind

end Sys2Proof.Machine
end

section
/-! The obligation of 20_memory.md on wire rows: a row is its bytes received one after another (R35, log entry 6). -/

namespace Sys2Proof.Machine

/-! ### Receiving a byte never reads the coming inputs -/

/-- The state with `l` as all of the environment's coming inputs. -/
def State.withInputs (s : State) (l : List Input) : State := { s with inputs := l }

/-- `op` answers the same whatever inputs are to come, and leaves them as they are. -/
def InputsBlind (op : State → Result) : Prop :=
  ∀ (s : State) (l : List Input), op (s.withInputs l) = andThen (op s) fun t => .next (t.withInputs l)

section
variable (s : State) (l : List Input)

@[simp] theorem State.withInputs_ctrl : (s.withInputs l).ctrl = s.ctrl := rfl
@[simp] theorem State.withInputs_cfg : (s.withInputs l).cfg = s.cfg := rfl
@[simp] theorem State.withInputs_rxBuf : (s.withInputs l).rxBuf = s.rxBuf := rfl
@[simp] theorem State.withInputs_txPhase : (s.withInputs l).txPhase = s.txPhase := rfl
@[simp] theorem State.withInputs_pending : (s.withInputs l).pending = s.pending := rfl
@[simp] theorem State.withInputs_attempt : (s.withInputs l).attempt = s.attempt := rfl
@[simp] theorem State.withInputs_decoderWith (b : Byte) : (s.withInputs l).decoderWith b = s.decoderWith b := rfl

@[simp] theorem State.withInputs_emit (e : Output) : (s.withInputs l).emit e = (s.emit e).withInputs l := rfl
@[simp] theorem State.withInputs_endSend_report (st : Status) :
    (s.withInputs l).endSend.report st = (s.endSend.report st).withInputs l := rfl
@[simp] theorem State.withInputs_withDecoder (d : Decoder) :
    (s.withInputs l).withDecoder d = (s.withDecoder d).withInputs l := rfl
@[simp] theorem State.withInputs_withBytes (bytes : List Byte) :
    (s.withInputs l).withBytes bytes = s.withInputs (rxWords bytes ++ l) := rfl

end

theorem failAttempt_inputsBlind (kind : FailKind) : InputsBlind (failAttempt kind) := by
  intro s l
  cases hcfg : s.cfg with
  | none => simp [failAttempt, hcfg]
  | some c =>
    by_cases hlast : s.attempt < c.maxAttempts
    · simp [failAttempt, hcfg, hlast, State.withInputs]
    · simp [failAttempt, hcfg, hlast]

theorem dispatchFrame_inputsBlind (f : Frame) : InputsBlind (dispatchFrame f) := by
  intro s l
  by_cases hwait : s.txPhase = .waitEcho
  · by_cases hecho : s.pending = some f
    · simp [dispatchFrame, hwait, hecho]
    · simp [dispatchFrame, hwait, hecho, failAttempt_inputsBlind _ _ l]
  · simp [dispatchFrame, hwait]

theorem dispatchAll_inputsBlind (fs : List Frame) : InputsBlind (dispatchAll fs) := by
  induction fs with
  | nil => exact fun _ _ => rfl
  | cons f fs ih =>
    intro s l
    simp only [dispatchAll, dispatchFrame_inputsBlind f s l, andThen_assoc, andThen_next, ih _ l]

theorem receiveByte_inputsBlind (b : Byte) : InputsBlind (receiveByte b) := by
  intro s l
  cases hctrl : s.ctrl with
  | closed => simp [receiveByte, hctrl]
  | opened =>
    by_cases hfull : rxCapacity ≤ s.rxBuf.length
    · simp [receiveByte, hctrl, hfull]
    · simp [receiveByte, hctrl, hfull, dispatchAll_inputsBlind _ _ l]

/-- Lists of coming inputs that the next steps do not tell apart, these steps do not tell apart after a received byte
either. -/
theorem receiveByte_steps_congr (b : Byte) (s : State) {n : Nat} {l m : List Input}
    (h : ∀ t : State, steps n (t.withInputs l) = steps n (t.withInputs m)) :
    andThen (receiveByte b (s.withInputs l)) (steps n) = andThen (receiveByte b (s.withInputs m)) (steps n) := by
  simp only [receiveByte_inputsBlind b s, andThen_assoc, andThen_next, h]

/-! ### The step of an RX_BYTE word and of a burst -/

theorem step_of_enabled_head (s : State) {inp : Input} {tail : List Input}
    (h : inputEnabled (s.withInputs (inp :: tail)) inp = true) :
    step (s.withInputs (inp :: tail)) = exec (decodeInput inp).1 (s.withInputs ((decodeInput inp).2 ++ tail)) :=
  step_of_fetch (fetch_of_first_enabled (held := []) rfl (by simp) h)

theorem toNat_eventWord_rxByte (b : Byte) : (eventWord 1 b.toNat).toNat = 256 + b.toNat := by
  simp only [eventWord, BitVec.toNat_ofNat]
  omega

/-- The RX_BYTE word of a byte decodes to RX_BYTE of that byte (30_encoding.md R60). -/
theorem decodeInput_rxWord (b : Byte) : decodeInput (plainEvent 1 b.toNat) = (.rxByte b, []) := by
  have hcode : (256 + b.toNat) / 256 = 1 := by omega
  have hdata : (256 + b.toNat) % 256 = b.toNat := by omega
  simp [plainEvent, decodeInput, decodeEvent, toNat_eventWord_rxByte, hcode, hdata]

/-- An RX_BYTE word is no request, so it is never held. -/
theorem inputEnabled_rxWord (s : State) (b : Byte) : inputEnabled s (plainEvent 1 b.toNat) = true := by
  have hcode : eventWord 1 b.toNat ≠ eventWord 2 0 := by
    intro h
    have hnat : 256 + b.toNat = 512 := (toNat_eventWord_rxByte b).symm.trans (congrArg BitVec.toNat h)
    omega
  simp [plainEvent, inputEnabled, hcode]

theorem step_rxWord (b : Byte) (s : State) (tail : List Input) :
    step (s.withInputs (plainEvent 1 b.toNat :: tail)) = receiveByte b (s.withInputs tail) := by
  rw [step_of_enabled_head s (inputEnabled_rxWord _ b), decodeInput_rxWord]
  rfl

/-- The first unit of a burst, complete or not (log entry 7), is run as a wire row: its first byte is received, the
unit's other bytes come next as RX_BYTE words, and what is left of the burst stays a burst. -/
theorem decodeWire_receivesRow (first : Byte) (rest : List Byte) :
    ∃ unit left, rest = unit ++ left ∧ (decodeWire first rest).2 = burst left ∧
      exec (decodeWire first rest).1 = receiveRow first unit := by
  unfold decodeWire
  split
  · split
    · exact ⟨[_], _, rfl, rfl, rfl⟩
    · exact ⟨[_, _, _], _, rfl, rfl, rfl⟩
    · exact ⟨[_, _, _, _, _], _, rfl, rfl, rfl⟩
    · rename_i len left _
      split
      · split
        · exact ⟨len :: left.take _, left.drop _, by simp, rfl, rfl⟩
        · exact ⟨[], _, rfl, rfl, rfl⟩
      · exact ⟨[len], left, rfl, rfl, rfl⟩
    · exact ⟨[], _, rfl, rfl, rfl⟩
  · exact ⟨[], rest, rfl, rfl, rfl⟩

/-- The step of a burst receives its first byte; the others still come, a first part of them as words. -/
theorem step_wire (first : Byte) (rest : List Byte) : ∃ unit left, rest = unit ++ left ∧
    ∀ (s : State) (tail : List Input), step (s.withInputs (.wire first rest :: tail)) =
      receiveByte first (s.withInputs (rxWords unit ++ (burst left ++ tail))) := by
  obtain ⟨unit, left, hrest, hleft, hexec⟩ := decodeWire_receivesRow first rest
  refine ⟨unit, left, hrest, fun s tail => ?_⟩
  rw [step_of_enabled_head s rfl]
  simp only [decodeInput, hexec, hleft, receiveRow, State.withInputs_withBytes]

/-! ### A burst taken to its end -/

/-- With `pre` already cut off as words, as many steps as there are bytes do not tell a burst from its words. -/
theorem steps_burst (n : Nat) (pre rest : List Byte) (hn : pre.length + rest.length = n) (s : State)
    (tail : List Input) :
    steps n (s.withInputs (rxWords pre ++ (burst rest ++ tail))) =
      steps n (s.withInputs (rxWords (pre ++ rest) ++ tail)) := by
  induction n generalizing pre rest s with
  | zero =>
    obtain rfl : rest = [] := List.length_eq_zero_iff.1 (by omega)
    simp [burst]
  | succ n ih =>
    cases pre with
    | cons p pre =>
      have hlen : pre.length + rest.length = n := by simp only [List.length_cons] at hn; omega
      simp only [List.cons_append, rxWords_cons, steps, step_rxWord]
      exact receiveByte_steps_congr p s (ih pre rest hlen)
    | nil =>
      cases rest with
      | nil => cases hn
      | cons first rest =>
        obtain ⟨unit, left, rfl, hstep⟩ := step_wire first rest
        have hlen : unit.length + left.length = n := by simpa using hn
        simp only [List.nil_append, List.cons_append, rxWords_nil, rxWords_cons, burst, steps, step_rxWord, hstep]
        exact receiveByte_steps_congr first s (ih unit left hlen)

/-- Settles O23: a row's step receives its first byte with the others put next, by definition; a burst and its words
stay indistinguishable step by step because receiving a byte never reads the coming inputs. -/
theorem wireRowsAreTheirBytes : Obligations.WireRowsAreTheirBytes := by
  refine ⟨fun s => ⟨fun _ => rfl, fun _ _ => rfl, fun _ _ _ _ => rfl, fun _ _ _ _ _ _ => rfl, fun _ _ _ => rfl⟩, ?_⟩
  intro s first rest tail
  exact steps_burst (1 + rest.length) [] (first :: rest) (by simp [Nat.add_comm]) s tail

end Sys2Proof.Machine
end

section
/-! The obligations of 30_encoding.md: event words (R59, R60, R64), wire units (R50-R55, R67) and the checksum's bit 7
(R58). -/

namespace Sys2Proof.Machine

/-! ### The event table -/

/-- The word carries the instruction: the rows of 30_encoding.md R60, and R64's reserved words, with `m` and `c` on the
side ports. -/
inductive EventRow (m : Message) (c : Config) : EventWord → Instr → Prop where
  | rxByte (b : Byte) : EventRow m c (eventWord 1 b.toNat) (.rxByte b)
  | txReq : EventRow m c (eventWord 2 0) (.txReq m)
  | txCancel : EventRow m c (eventWord 3 0) .txCancel
  | echoTimeout : EventRow m c (eventWord 4 0) .echoTimeout
  | backoffDone : EventRow m c (eventWord 5 0) .backoffDone
  | openBlock : EventRow m c (eventWord 6 0) (.openBlock c)
  | closeBlock : EventRow m c (eventWord 7 0) .closeBlock
  | transportErr : EventRow m c (eventWord 8 0) .transportErr
  | reserved (w : EventWord) (h : reservedWord w = true) : EventRow m c w (.reservedEvent w)

section
variable {w : EventWord} {m : Message} {c : Config} {i : Instr}

theorem reservedWord_iff : reservedWord w = true ↔
    w.toNat / 256 = 0 ∨ 9 ≤ w.toNat / 256 ∨ (2 ≤ w.toNat / 256 ∧ w.toNat % 256 ≠ 0) := by
  simp [reservedWord, or_assoc]

/-- The spec's wording of R64 bounds the code of the nonzero-data case by 8; beyond 8 every word is reserved anyway. -/
theorem reservedWord_iff_of_codes : reservedWord w = true ↔
    w.toNat / 256 = 0 ∨ 9 ≤ w.toNat / 256 ∨
      (2 ≤ w.toNat / 256 ∧ w.toNat / 256 ≤ 8 ∧ w.toNat % 256 ≠ 0) := by
  rw [reservedWord_iff]
  omega

theorem eventWord_of_code_data {code data : Nat} (hcode : w.toNat / 256 = code) (hdata : w.toNat % 256 = data) :
    w = eventWord code data := by
  have hw : code * 256 + data = w.toNat := by omega
  rw [eventWord, hw, BitVec.ofNat_toNat, BitVec.setWidth_eq]

theorem reservedWord_rxWord (b : Byte) : reservedWord (eventWord 1 b.toNat) = false := by
  rw [← Bool.not_eq_true, reservedWord_iff, toNat_eventWord_rxByte]
  omega

/-- Every word decodes along a row of the table. -/
theorem eventRow_decodeEvent (w : EventWord) (m : Message) (c : Config) : EventRow m c w (decodeEvent w m c) := by
  unfold decodeEvent
  dsimp only
  split
  next hcode =>
    have hw : w = eventWord 1 (BitVec.ofNat 8 (w.toNat % 256)).toNat :=
      eventWord_of_code_data hcode (by simp)
    have hrow : EventRow m c _ _ := .rxByte (BitVec.ofNat 8 (w.toNat % 256))
    rwa [← hw] at hrow
  next hcode =>
    split
    next hdata => exact .reserved w (reservedWord_iff.2 (by omega))
    next hdata =>
      have hdata : w.toNat % 256 = 0 := not_not.1 hdata
      split
      next h => exact eventWord_of_code_data h hdata ▸ .txReq
      next h => exact eventWord_of_code_data h hdata ▸ .txCancel
      next h => exact eventWord_of_code_data h hdata ▸ .echoTimeout
      next h => exact eventWord_of_code_data h hdata ▸ .backoffDone
      next h => exact eventWord_of_code_data h hdata ▸ .openBlock
      next h => exact eventWord_of_code_data h hdata ▸ .closeBlock
      next h => exact eventWord_of_code_data h hdata ▸ .transportErr
      next => exact .reserved w (reservedWord_iff.2 (by grind))

/-- A reserved word stands in no other row than its own. -/
theorem decodeEvent_of_reserved (h : reservedWord w = true) : decodeEvent w m c = .reservedEvent w := by
  have hrow := eventRow_decodeEvent w m c
  generalize decodeEvent w m c = i at hrow
  cases hrow with
  | rxByte b => simp [reservedWord_rxWord] at h
  | txReq | txCancel | echoTimeout | backoffDone | openBlock | closeBlock | transportErr => exact absurd h (by decide)
  | reserved => rfl

theorem EventRow.encode_eq (h : EventRow m c w i) : ∃ m' c', encode i = some (.event w m' c') := by
  cases h <;> exact ⟨_, _, rfl⟩

end

/-- Settles O2: the word stands in a row of the event table, and each row's instruction is encoded as its word. -/
theorem encodeOfDecodedEventWord : Obligations.EncodeOfDecodedEventWord :=
  fun w m c => (eventRow_decodeEvent w m c).encode_eq

/-- A reserved word is not the TX_REQ word, so it is never held. -/
theorem step_withInput_reserved {w : EventWord} (h : reservedWord w = true) (m : Message) (c : Config) (s : State) :
    step (s.withInput (.event w m c)) = .refused .reservedWord := by
  have hreq : w ≠ eventWord 2 0 := by
    rintro rfl
    exact absurd h (by decide)
  have hinp : inputEnabled (s.withInputs (.event w m c :: s.inputs)) (.event w m c) = true := by
    simp [inputEnabled, hreq]
  have hstep := step_of_enabled_head s hinp
  rw [decodeInput, decodeEvent_of_reserved h] at hstep
  exact hstep

/-- Settles O5: the table has a RESERVED_EVENT row for the reserved words only. -/
theorem reservedWordsAreRefused : Obligations.ReservedWordsAreRefused := by
  intro w m c s
  rw [← reservedWord_iff_of_codes]
  refine ⟨fun h => ⟨decodeEvent_of_reserved h, rfl, step_withInput_reserved h m c s⟩, fun h w' hdec => ?_⟩
  have hrow : EventRow m c w (.reservedEvent w') := hdec ▸ eventRow_decodeEvent w m c
  cases hrow with
  | reserved _ hres => exact h hres

/-! ### Wire units -/

theorem opcodeOf_iff {k : LengthClass} {op : Byte} :
    opcodeOf k op = true ↔ isOpcode op = true ∧ lengthClass op = k := by
  simp [opcodeOf]

theorem decodeWire_frameC2 {op : Byte} (h : opcodeOf .c2 op = true) (cks : Byte) (left : List Byte) :
    decodeWire op (cks :: left) = (.frameC2 op cks, burst left) := by
  obtain ⟨hop, hclass⟩ := opcodeOf_iff.1 h
  simp [decodeWire, hop, hclass]

theorem decodeWire_frameC4 {op : Byte} (h : opcodeOf .c4 op = true) (p0 p1 cks : Byte) (left : List Byte) :
    decodeWire op (p0 :: p1 :: cks :: left) = (.frameC4 op p0 p1 cks, burst left) := by
  obtain ⟨hop, hclass⟩ := opcodeOf_iff.1 h
  simp [decodeWire, hop, hclass]

theorem decodeWire_frameC6 {op : Byte} (h : opcodeOf .c6 op = true) (p0 p1 p2 p3 cks : Byte) (left : List Byte) :
    decodeWire op (p0 :: p1 :: p2 :: p3 :: cks :: left) = (.frameC6 op p0 p1 p2 p3 cks, burst left) := by
  obtain ⟨hop, hclass⟩ := opcodeOf_iff.1 h
  simp [decodeWire, hop, hclass]

/-- A body of the length its length byte gives is taken whole; after a bad length byte there is none (R54, R55). -/
theorem decodeWire_frameVar {op len : Byte} {body : List Byte} (h : (Instr.frameVar op len body).wf = true)
    (left : List Byte) : decodeWire op (len :: (body ++ left)) = (.frameVar op len body, burst left) := by
  obtain ⟨hopcode, hlength⟩ := Bool.and_eq_true_iff.1 h
  obtain ⟨hop, hclass⟩ := opcodeOf_iff.1 hopcode
  have hlength := of_decide_eq_true hlength
  cases hlegal : legalLen len with
  | true =>
    have hbody : body.length = len.toNat - 2 := by simpa [hlegal] using hlength
    simp [decodeWire, hop, hclass, hlegal, ← hbody]
  | false =>
    have hbody : body = [] := by simpa [hlegal] using hlength
    simp [decodeWire, hop, hclass, hlegal, hbody]

theorem decodeWire_dataByte {b : Byte} (h : isOpcode b = false) (left : List Byte) :
    decodeWire b left = (.dataByte b, burst left) := by
  simp [decodeWire, h]

@[simp] theorem flatMap_inputBytes_burst (l : List Byte) : (burst l).flatMap inputBytes = l := by
  cases l <;> simp [burst, inputBytes]

@[simp] theorem inputBytes_rxWord (b : Byte) : inputBytes (plainEvent 1 b.toNat) = [b] := by
  have hb : BitVec.ofNat 8 (256 + b.toNat) = b := by bv_omega
  simp [plainEvent, inputBytes, toNat_eventWord_rxByte, hb]

/-- Settles O3: a unit is one received byte or an opcode's candidate, and what it leaves is a burst again
(log entry 7). -/
theorem burstDecodesWithoutLoss : Obligations.BurstDecodesWithoutLoss := by
  intro first rest
  cases hop : isOpcode first with
  | false =>
    rw [decodeWire_dataByte hop]
    exact ⟨_, rfl, by simp [Instr.wf, hop], by simp [inputBytes]⟩
  | true =>
    simp only [decodeWire, hop, if_true]
    split
    next hclass => exact ⟨_, rfl, opcodeOf_iff.2 ⟨hop, hclass⟩, by simp [inputBytes]⟩
    next hclass => exact ⟨_, rfl, opcodeOf_iff.2 ⟨hop, hclass⟩, by simp [inputBytes]⟩
    next hclass => exact ⟨_, rfl, opcodeOf_iff.2 ⟨hop, hclass⟩, by simp [inputBytes]⟩
    next len left hclass =>
      have hopcode : opcodeOf .var first = true := opcodeOf_iff.2 ⟨hop, hclass⟩
      split
      next hlegal =>
        split
        next hfits =>
          exact ⟨_, rfl, by simp [Instr.wf, hopcode, hlegal, hfits], by simp [inputBytes]⟩
        next => exact ⟨_, rfl, rfl, by simp⟩
      next hlegal => exact ⟨_, rfl, by simp [Instr.wf, hopcode, hlegal], by simp [inputBytes]⟩
    next => exact ⟨_, rfl, rfl, by simp⟩

/-! ### Decoding the words of an instruction -/

/-- Settles O1: a wire row is cut from its own bytes with nothing left of the burst, an event row's word computes to it,
and a reserved word is in no other row of the event table. -/
theorem decodeOfEncode : Obligations.DecodeOfEncode := by
  intro i hwf hext
  cases i with
  | frameC2 op cks => exact ⟨_, rfl, decodeWire_frameC2 hwf cks []⟩
  | frameC4 op p0 p1 cks => exact ⟨_, rfl, decodeWire_frameC4 hwf p0 p1 cks []⟩
  | frameC6 op p0 p1 p2 p3 cks => exact ⟨_, rfl, decodeWire_frameC6 hwf p0 p1 p2 p3 cks []⟩
  | frameVar op len body => exact ⟨_, rfl, by simpa [decodeInput, burst] using decodeWire_frameVar hwf []⟩
  | dataByte b => exact ⟨_, rfl, decodeWire_dataByte (by simpa [Instr.wf] using hwf) []⟩
  | rxByte b => exact ⟨_, rfl, decodeInput_rxWord b⟩
  | txReq | txCancel | echoTimeout | backoffDone | openBlock | closeBlock | transportErr => exact ⟨_, rfl, rfl⟩
  | reservedEvent w => exact ⟨_, rfl, congrArg (·, []) (decodeEvent_of_reserved hwf)⟩
  | cksGen | cksChk | msgBuild | encodeMsg | frameMsg | decodeLoop | dNoise | dWait | dAccept | dResync | dBadLen
  | txIssue | dispatch | failAttempt => cases hext

/-- Settles O4: each sample word or frame computes to its instruction. -/
theorem sampleWordsDecode : Obligations.SampleWordsDecode :=
  ⟨fun _ _ => rfl, fun _ _ => rfl, fun _ _ => rfl, fun _ _ => rfl, fun _ _ => rfl, rfl, rfl, rfl, rfl, rfl⟩

/-! ### Bit 7 of a checksum (R58) -/

theorem isOpcode_xor (a b : Byte) : isOpcode (a ^^^ b) = (isOpcode a ^^ isOpcode b) :=
  BitVec.getLsbD_xor

theorem isOpcode_not8 (b : Byte) : isOpcode (not8 b) = !isOpcode b := by
  simp [not8, isOpcode]

theorem isOpcode_xorBytes_of_data {l : List Byte} (h : ∀ b ∈ l, isOpcode b = false) :
    isOpcode (xorBytes l) = false := by
  induction l with
  | nil => rfl
  | cons b l ih =>
    obtain ⟨hb, hl⟩ := List.forall_mem_cons.1 h
    simp [isOpcode_xor, hb, ih hl]

/-- Settles O9: the XOR of the bytes has bit 7 from the opcode alone, and the complement clears it. -/
theorem dataFrameChecksumIsDataByte : Obligations.DataFrameChecksumIsDataByte := by
  intro op rest hop hrest
  simp [checksumOf, isOpcode_not8, isOpcode_xor, hop, isOpcode_xorBytes_of_data hrest]

end Sys2Proof.Machine
end

section
/-! The obligations of 40_checksum.md: the values of the two operations (R68, R69), the laws of XOR (R70) and the errors
the check detects (R71). -/

namespace Sys2Proof.Machine

/-! ### The laws of XOR and the checksum invariant (R70) -/

theorem checksumOk_eq_false_iff (f : Frame) : checksumOk f = false ↔ xorBytes f ≠ 0xFF := by
  rw [← Bool.not_eq_true, checksumOk_iff]

/-- The check holds for one last byte only, the generated one. -/
theorem checksumOk_append_singleton_iff (pre : List Byte) (c : Byte) :
    checksumOk (pre ++ [c]) = true ↔ c = checksumOf pre := by
  rw [checksumOk_iff, ← xorBytes_append_checksumOf pre]
  simp [xorBytes_append]

/-- Settles O7: XOR cancels on the left, so the byte that completes a list to 0xFF is the generated one and no other. -/
theorem checksumLaws : Obligations.ChecksumLaws :=
  ⟨fun a b c => ⟨(BitVec.xor_assoc a b c).symm, BitVec.xor_comm a b, BitVec.zero_xor, BitVec.xor_self⟩,
    xorBytes_append_checksumOf, checksumOk_append_singleton_iff⟩

/-! ### The errors the check detects (R71) -/

/-- The XOR of the changes between two lists of one length is the change of their XOR. -/
theorem xorBytes_zipWith_xor {f g : List Byte} (h : g.length = f.length) :
    xorBytes (List.zipWith (· ^^^ ·) f g) = xorBytes f ^^^ xorBytes g := by
  induction f generalizing g with
  | nil => simp_all
  | cons a f ih =>
    obtain _ | ⟨b, g⟩ := g
    · simp at h
    · simp only [List.zipWith_cons_cons, xorBytes_cons, ih (Nat.succ.inj h)]
      ac_rfl

/-- Changing one byte changes the XOR by exactly the old byte and the new one. -/
theorem xorBytes_set_xor_getElem {l : List Byte} {i : Nat} (h : i < l.length) (b : Byte) :
    xorBytes (l.set i b) ^^^ l[i] = xorBytes l ^^^ b := by
  induction l generalizing i with
  | nil => simp at h
  | cons a l ih =>
    cases i with
    | zero =>
      simp only [List.set_cons_zero, xorBytes_cons, List.getElem_cons_zero]
      ac_rfl
    | succ i => simp [ih (Nat.lt_of_succ_lt_succ h), BitVec.xor_assoc]

/-- Settles O8: a copy passes exactly when its XOR is the frame's, that is when the changes cancel; a single change
never does. -/
theorem checksumDetectsErrors : Obligations.ChecksumDetectsErrors := by
  intro f hf
  have hxor : xorBytes f = 0xFF := (checksumOk_iff f).1 hf
  refine ⟨fun g hlen => ?_, fun i b hi hne => ?_⟩
  · rw [checksumOk_eq_false_iff, xorBytes_zipWith_xor hlen, ← hxor]
    exact not_congr (eq_comm.trans BitVec.xor_eq_zero_iff.symm)
  · rw [checksumOk_eq_false_iff, ← hxor]
    intro hsame
    have hchange := xorBytes_set_xor_getElem hi b
    rw [hsame, BitVec.xor_right_inj] at hchange
    exact hne (hchange ▸ List.getElem?_eq_getElem hi)

/-! ### The values of the two operations (R68, R69) -/

theorem foldl_xor_zero (l : List Byte) : l.foldl (· ^^^ ·) 0 = xorBytes l := by
  simp [foldl_xor]

/-- Settles O6: the XOR taken from the first byte to the last is the model's, and only `result` is written. -/
theorem checksumUnitCompletes : Obligations.ChecksumUnitCompletes := by
  intro bytes s
  rw [foldl_xor_zero]
  exact ⟨rfl, rfl⟩

end Sys2Proof.Machine
end

section
/-! The obligations of 41_encoder.md: which messages are valid (R72), their frames (R73-R75), and the frames' way back
through the decoder (R76). -/

namespace Sys2Proof.Machine

/-! ### Which messages are valid (R72) -/

/-- The opcode's range decides its class (30_encoding.md R52-R54), as a case split. -/
theorem lengthClass_cases {op : Byte} (h : isOpcode op = true) :
    (lengthClass op = .c2 ∧ op.toNat < 0xA0) ∨ (lengthClass op = .c4 ∧ 0xA0 ≤ op.toNat ∧ op.toNat < 0xC0) ∨
      (lengthClass op = .c6 ∧ 0xC0 ≤ op.toNat ∧ op.toNat < 0xE0) ∨ (lengthClass op = .var ∧ 0xE0 ≤ op.toNat) := by
  rw [lengthClass_of_range op h]
  split_ifs <;> simp <;> omega

theorem lengthClass_eq_var_iff {op : Byte} (h : isOpcode op = true) : lengthClass op = .var ↔ 0xE0 ≤ op.toNat := by
  obtain ⟨hclass, hrange⟩ | ⟨hclass, -, hrange⟩ | ⟨hclass, -, hrange⟩ | ⟨hclass, hrange⟩ := lengthClass_cases h
  all_goals simp [hclass]; omega

/-- The payload has the length its class needs, in opcode ranges. -/
theorem payloadNeed_eq_length_iff {m : Message} (h : isOpcode m.op = true) :
    payloadNeed m = some m.payload.length ↔
      (m.op.toNat < 0xA0 ∧ m.payload.length = 0) ∨
        (0xA0 ≤ m.op.toNat ∧ m.op.toNat < 0xC0 ∧ m.payload.length = 2) ∨
        (0xC0 ≤ m.op.toNat ∧ m.op.toNat < 0xE0 ∧ m.payload.length = 4) ∨
        (0xE0 ≤ m.op.toNat ∧ 3 ≤ m.declLen.toNat ∧ m.declLen.toNat ≤ 127 ∧
          m.payload.length + 3 = m.declLen.toNat) := by
  obtain ⟨hclass, hrange⟩ | ⟨hclass, hlow, hrange⟩ | ⟨hclass, hlow, hrange⟩ | ⟨hclass, hrange⟩ := lengthClass_cases h
  case inr.inr.inr =>
    simp only [payloadNeed, hclass, Option.ite_none_right_eq_some, Option.some.injEq, legalLen_iff]
    omega
  all_goals
    simp only [payloadNeed, hclass, Option.some.injEq]
    omega

/-- Settles O10: bit 7 clear is the first error, a length outside the class's the second. -/
theorem messageValidation : Obligations.MessageValidation := by
  intro m s
  refine congrArg (fun e => Host.Outcome.next (s.returning (.built e))) ?_
  cases hop : isOpcode m.op with
  | false =>
    have hlow : m.op.toNat < 0x80 := by
      rwa [← Nat.not_le, ← isOpcode_iff, Bool.not_eq_true]
    simp [messageError, hop, hlow]
  | true =>
    have hhigh : ¬ m.op.toNat < 0x80 := Nat.not_lt.2 ((isOpcode_iff _).1 hop)
    simp only [messageError, hop, if_true, payloadNeed_eq_length_iff hop, if_neg hhigh]

/-! ### The frame of a valid message (R73) -/

theorem messageBytes_of_isOpcode {m : Message} (h : isOpcode m.op = true) :
    messageBytes m = m.op :: ((if 0xE0 ≤ m.op.toNat then [m.declLen] else []) ++ m.payload) := by
  simp only [messageBytes, lengthClass_eq_var_iff h]

theorem length_frameOfMessage {m : Message} (h : messageError m = none) :
    (frameOfMessage m).length =
      if m.op.toNat < 0xA0 then 2 else if m.op.toNat < 0xC0 then 4 else if m.op.toNat < 0xE0 then 6
        else m.declLen.toNat := by
  obtain ⟨hop, hneed⟩ := (messageError_eq_none_iff m).1 h
  have hlen : (frameOfMessage m).length = m.payload.length + 2 + if 0xE0 ≤ m.op.toNat then 1 else 0 := by
    rw [frameOfMessage, messageBytes_of_isOpcode hop]
    split_ifs <;> simp
  have hfits := (payloadNeed_eq_length_iff hop).1 hneed
  rw [hlen]
  split_ifs <;> omega

/-- Settles O11: the frame is the message's bytes and their checksum, and valid frames have 2 to 127 bytes. -/
theorem encodeBuildsValidFrame : Obligations.EncodeBuildsValidFrame := by
  intro m s hvalid
  obtain ⟨hop, -⟩ := (messageError_eq_none_iff m).1 hvalid
  have hframe := isFrame_frameOfMessage hvalid
  have hbytes : frameOfMessage m = m.op :: ((if 0xE0 ≤ m.op.toNat then [m.declLen] else []) ++ m.payload ++
      [checksumOf (messageBytes m)]) := by
    rw [frameOfMessage, ← List.cons_append, ← messageBytes_of_isOpcode hop]
  refine ⟨_, ?_, hbytes, hframe, length_frameOfMessage hvalid, isFrame_length _ hframe⟩
  exact congrArg (fun f => Host.Outcome.next (s.returning (.frame f))) hbytes

/-! ### Equal messages and equal frames (R75) -/

theorem messageEq_iff (m m' : Message) : messageEq m m' = true ↔ m.op = m'.op ∧ m.payload = m'.payload := by
  simp [messageEq]

/-- The checksum is a function of the bytes before it, so frames are equal when those are. -/
theorem frameOfMessage_eq_iff (m m' : Message) :
    frameOfMessage m = frameOfMessage m' ↔ messageBytes m = messageBytes m' :=
  ⟨fun h => List.append_inj_left' h rfl, fun h => by rw [frameOfMessage, h, frameOfMessage]⟩

theorem messageBytes_eq_iff (m m' : Message) :
    messageBytes m = messageBytes m' ↔
      m.op = m'.op ∧ m.payload = m'.payload ∧ (lengthClass m.op = .var → m.declLen = m'.declLen) := by
  simp only [messageBytes, List.cons.injEq]
  refine and_congr_right fun hop => ?_
  rw [← hop]
  split_ifs with hclass
  · simp [hclass, and_comm]
  · simp [hclass]

/-- A valid variable-class message's declared length counts its payload and three bytes more (30_encoding.md R54). -/
theorem declLen_of_valid {m : Message} (h : messageError m = none) (hclass : lengthClass m.op = .var) :
    m.declLen.toNat = m.payload.length + 3 := by
  obtain ⟨hop, hneed⟩ := (messageError_eq_none_iff m).1 h
  have hvar := (lengthClass_eq_var_iff hop).1 hclass
  have hfits := (payloadNeed_eq_length_iff hop).1 hneed
  omega

/-- Settles O12: the bytes before the checksum are opcode, declared length and payload, and the payload fixes the
declared length. -/
theorem messageEqualityIsFrameEquality : Obligations.MessageEqualityIsFrameEquality := by
  intro m m' hvalid hvalid'
  have hlen : m.op = m'.op ∧ m.payload = m'.payload → lengthClass m.op = .var → m.declLen = m'.declLen := by
    rintro ⟨hop, hpayload⟩ hclass
    apply BitVec.eq_of_toNat_eq
    rw [declLen_of_valid hvalid hclass, declLen_of_valid hvalid' (hop ▸ hclass), hpayload]
  rw [messageEq_iff, frameOfMessage_eq_iff, messageBytes_eq_iff]
  refine ⟨Iff.rfl, ⟨fun heq => ?_, fun ⟨hop, hpayload, _⟩ => ⟨hop, hpayload⟩⟩, hlen⟩
  exact ⟨heq.1, heq.2, hlen heq⟩

/-! ### The message of a valid frame (R74) -/

theorem expLen_eq_len_iff_of_var {op : Byte} (h : lengthClass op = .var) (len : Byte) (rest : List Byte) (n : Nat) :
    expLen (op :: len :: rest) = .len n ↔ legalLen len = true ∧ len.toNat = n := by
  simp only [expLen, h]
  split <;> simp_all

/-- Bytes that complete a message's bytes to a valid frame make the message valid: the head gives its class's length. -/
theorem messageError_eq_none_of_isFrame {m : Message} {cks : Byte} (h : isFrame (messageBytes m ++ [cks]) = true) :
    messageError m = none := by
  obtain ⟨hop, hlen, -⟩ := (isFrame_iff _).1 h
  refine (messageError_eq_none_iff m).2 ⟨hop, ?_⟩
  cases hclass : lengthClass m.op with
  | c2 | c4 | c6 =>
    simp only [messageBytes, expLen, hclass, reduceCtorEq, if_false, List.nil_append, List.cons_append,
      ExpLen.len.injEq, List.length_cons, List.length_append, List.length_nil] at hlen
    simp only [payloadNeed, hclass, Option.some.injEq]
    omega
  | var =>
    simp only [messageBytes, hclass, if_true, List.cons_append, List.nil_append] at hlen
    obtain ⟨hlegal, hlen⟩ := (expLen_eq_len_iff_of_var hclass _ _ _).1 hlen
    simp [payloadNeed, hclass, hlegal, hlen]

/-- The last byte of a valid frame is the checksum that ENCODE generates. -/
theorem frameOfMessage_of_isFrame {m : Message} {cks : Byte} (h : isFrame (messageBytes m ++ [cks]) = true) :
    frameOfMessage m = messageBytes m ++ [cks] := by
  obtain ⟨-, -, hxor⟩ := (isFrame_iff _).1 h
  rw [(checksumOk_append_singleton_iff _ cks).1 ((checksumOk_iff _).2 hxor), frameOfMessage]

theorem eq_cons_cons_of_isFrame {f : Frame} (h : isFrame f = true) : ∃ op b rest, f = op :: b :: rest := by
  obtain ⟨hlen, -⟩ := isFrame_length f h
  match f with
  | op :: b :: rest => exact ⟨op, b, rest, rfl⟩

/-- A variable-class frame has a byte after its length byte. -/
theorem ne_nil_of_isFrame_var {op len : Byte} {rest : List Byte} (h : isFrame (op :: len :: rest) = true)
    (hclass : lengthClass op = .var) : rest ≠ [] := by
  obtain ⟨-, hlen, -⟩ := (isFrame_iff _).1 h
  obtain ⟨hlegal, hlen⟩ := (expLen_eq_len_iff_of_var hclass _ _ _).1 hlen
  have hlow := ((legalLen_iff len).1 hlegal).1
  rintro rfl
  rw [hlen] at hlow
  exact absurd hlow (by simp)

theorem messageOfFrame_op (f : Frame) : (messageOfFrame f).op = f.headD 0 := by
  simp only [messageOfFrame]
  split <;> rfl

theorem messageOfFrame_of_var {op : Byte} (h : lengthClass op = .var) (len : Byte) (rest : List Byte) :
    messageOfFrame (op :: len :: rest) = { op := op, declLen := len, payload := rest.dropLast } := by
  simp [messageOfFrame, h, List.dropLast_eq_take]

theorem messageOfFrame_of_ne_var {op : Byte} (h : lengthClass op ≠ .var) (rest : List Byte) :
    messageOfFrame (op :: rest) =
      { op := op, declLen := BitVec.ofNat 8 (rest.length + 1), payload := rest.dropLast } := by
  simp [messageOfFrame, h, List.dropLast_eq_take]

/-- FRAME_MSG keeps every byte of a frame but the last, its checksum. -/
theorem exists_eq_messageBytes_append {f : Frame} (h : isFrame f = true) :
    ∃ cks, f = messageBytes (messageOfFrame f) ++ [cks] := by
  obtain ⟨op, b, rest, rfl⟩ := eq_cons_cons_of_isFrame h
  have hbytes : messageBytes (messageOfFrame (op :: b :: rest)) = (op :: b :: rest).dropLast := by
    by_cases hclass : lengthClass op = .var
    · have hrest := ne_nil_of_isFrame_var h hclass
      simp [messageOfFrame_of_var hclass, messageBytes, hclass, List.dropLast_cons_of_ne_nil hrest]
    · simp [messageOfFrame_of_ne_var hclass, messageBytes, hclass]
  exact ⟨_, by rw [hbytes, List.dropLast_append_getLast (List.cons_ne_nil _ _)]⟩

/-- Settles O13: the record keeps the frame's bytes but the last, which a valid frame has as ENCODE generates it. -/
theorem frameMessageInvertsEncode : Obligations.FrameMessageInvertsEncode := by
  intro f s hframe
  obtain ⟨cks, hsplit⟩ := exists_eq_messageBytes_append hframe
  have hvalid : messageError (messageOfFrame f) = none := messageError_eq_none_of_isFrame (hsplit ▸ hframe)
  have hencode : frameOfMessage (messageOfFrame f) = f :=
    (frameOfMessage_of_isFrame (hsplit ▸ hframe)).trans hsplit.symm
  have hroom := (isFrame_length f hframe).2
  refine ⟨messageOfFrame f, rfl, ?_, ?_, ?_, hvalid, hencode⟩
  all_goals
    obtain ⟨op, b, rest, rfl⟩ := eq_cons_cons_of_isFrame hframe
    rw [messageOfFrame_op]
  · rfl
  · intro (hclass : lengthClass op = .var)
    simp [messageOfFrame_of_var hclass, List.dropLast_eq_take]
  · intro (hclass : lengthClass op ≠ .var)
    have hlen : rest.length + 1 + 1 < 256 := Nat.lt_of_le_of_lt hroom (by decide)
    simp [messageOfFrame_of_ne_var hclass, List.dropLast_eq_take, Nat.mod_eq_of_lt hlen]

/-! ### DECODE on a part of a frame and on a whole one (42_decoder.md R78-R81) -/

theorem expLen_append_badLen (l l' : List Byte) (h : expLen l = .badLen) : expLen (l ++ l') = .badLen := by
  match l with
  | [] => cases h
  | [op] => cases hclass : lengthClass op <;> simp [expLen, hclass] at h
  | _ :: _ :: _ => exact h

/-- The decoder waits on every proper beginning of a frame: the head either does not give the length yet or gives the
frame's. -/
theorem microStep_eq_wait_of_isFrame_append {pre post : List Byte} (h : isFrame (pre ++ post) = true)
    (hpost : post ≠ []) : microStep pre = .wait := by
  obtain ⟨hop, hlen, -⟩ := (isFrame_iff _).1 h
  rw [microStep_eq_wait_iff]
  cases pre with
  | nil => exact .inl rfl
  | cons op rest =>
    refine .inr ⟨hop, ?_⟩
    cases hhead : expLen (op :: rest) with
    | needMore =>
      obtain ⟨rfl, -⟩ := expLen_needMore op rest hhead
      exact .inl ⟨rfl, rfl⟩
    | badLen =>
      rw [expLen_append_badLen _ _ hhead] at hlen
      cases hlen
    | len n =>
      rw [expLen_append _ _ n hhead] at hlen
      cases hlen
      have := List.length_pos_iff.2 hpost
      exact .inr ⟨_, rfl, by rw [List.length_append]; omega⟩

/-- The decoder accepts a frame that is all there and alone. -/
theorem microStep_of_isFrame {f : Frame} (h : isFrame f = true) : microStep f = .accept f.length := by
  obtain ⟨hop, hlen, hxor⟩ := (isFrame_iff f).1 h
  cases f with
  | nil => cases hlen
  | cons op rest =>
    have hop : isOpcode op = true := hop
    have hcheck : checksumOk (op :: rest) = true := (checksumOk_iff _).2 hxor
    simp only [microStep, hop, hlen, List.take_length, hcheck, Nat.lt_irrefl, if_true, if_false]

theorem microStep_of_data {b : Byte} (h : isOpcode b = false) (rest : List Byte) :
    microStep (b :: rest) = .noise := by
  simp [microStep, h]

/-- The buffer alone decides which pass is made. -/
theorem Pass.unique {d e e' : Decoder} (h : Pass d e) (h' : Pass d e') : e = e' := by
  cases h with
  | drop _ hm =>
    cases h' with
    | drop => rfl
    | accept n hm' => simp [hm'] at hm
  | accept n hm =>
    cases h' with
    | drop _ hm' => simp [hm] at hm'
    | accept n' hm' =>
      cases hm.symm.trans hm'
      rfl

theorem decodeAll_of_pass {d e : Decoder} (h : Pass d e) : decodeAll d = decodeAll e := by
  obtain ⟨hwait, -⟩ | ⟨e', he', hd⟩ := decodeAll_cases d
  · cases h with
    | drop _ hm => simp [hwait] at hm
    | accept n hm => simp [hwait] at hm
  · rw [hd, h.unique he']

/-- DECODE of exactly one frame takes it whole, counts nothing and waits on the empty buffer. -/
theorem decodeAll_of_isFrame {d : Decoder} (h : isFrame d.rxBuf = true) :
    decodeAll d = { d with rxBuf := [], out := d.out ++ [d.rxBuf] } := by
  have hpass : Pass d (d.accept d.rxBuf.length) := .accept _ (microStep_of_isFrame h)
  have haccept : d.accept d.rxBuf.length = { d with rxBuf := [], out := d.out ++ [d.rxBuf] } := by
    simp [Decoder.accept]
  rw [decodeAll_of_pass hpass, haccept]
  exact decodeAll_of_wait _ rfl

/-- DECODE of one data byte drops it. -/
theorem decodeAll_of_data_singleton {d : Decoder} {b : Byte} (hbuf : d.rxBuf = [b]) (h : isOpcode b = false) :
    decodeAll d = { d with rxBuf := [], dropCount := d.dropCount + 1 } := by
  have hpass : Pass d d.dropOne := .drop (by simp [hbuf]) (.inl (by rw [hbuf, microStep_of_data h]))
  have hdrop : d.dropOne = { d with rxBuf := [], dropCount := d.dropCount + 1 } := by
    simp [Decoder.dropOne, hbuf]
  rw [decodeAll_of_pass hpass, hdrop]
  exact decodeAll_of_wait _ rfl

/-! ### Receiving the bytes of a frame -/

section
variable {s : State} {b : Byte} (hopen : s.ctrl = .opened)
include hopen

theorem receiveByte_of_wait (hwait : microStep (s.rxBuf ++ [b]) = .wait) :
    receiveByte b s = .next { s with rxBuf := s.rxBuf ++ [b] } := by
  have hroom := length_le_of_microStep_wait hwait
  rw [List.length_append] at hroom
  rw [receiveByte_opened b s hopen (by omega), decodeAll_of_wait _ hwait]
  rfl

/-- The last byte of a frame puts the frame out and empties the buffer. -/
theorem receiveByte_of_isFrame (hphase : s.txPhase ≠ .waitEcho) (hframe : isFrame (s.rxBuf ++ [b]) = true) :
    receiveByte b s =
      .next { s with rxBuf := [], trace := s.trace ++ [.frameOut (s.rxBuf ++ [b])] } := by
  have hroom := (isFrame_length _ hframe).2
  rw [List.length_append, List.length_singleton] at hroom
  rw [receiveByte_opened b s hopen (by omega), decodeAll_of_isFrame (d := s.decoderWith b) hframe]
  exact dispatchAll_forward _ (s.withDecoder _) hphase

theorem receiveByte_of_data (hbuf : s.rxBuf = []) (hdata : isOpcode b = false) :
    receiveByte b s = .next { s with rxBuf := [], dropCount := s.dropCount + 1 } := by
  rw [receiveByte_opened b s hopen (by simp [hbuf]), decodeAll_of_data_singleton (by simp [hbuf]) hdata]
  rfl

theorem step_rxWord_of_wait (hwait : microStep (s.rxBuf ++ [b]) = .wait) (tail : List Input) :
    step (s.withInputs (plainEvent 1 b.toNat :: tail)) =
      .next ({ s with rxBuf := s.rxBuf ++ [b] }.withInputs tail) := by
  rw [step_rxWord, receiveByte_of_wait (s := s.withInputs tail) hopen hwait]
  rfl

theorem step_rxWord_of_isFrame (hphase : s.txPhase ≠ .waitEcho) (hframe : isFrame (s.rxBuf ++ [b]) = true)
    (tail : List Input) :
    step (s.withInputs (plainEvent 1 b.toNat :: tail)) =
      .next { s with rxBuf := [], inputs := tail, trace := s.trace ++ [.frameOut (s.rxBuf ++ [b])] } := by
  rw [step_rxWord, receiveByte_of_isFrame (s := s.withInputs tail) hopen hphase hframe]
  rfl

end

/-- Bytes of a frame that do not complete it are held, with nothing put out. -/
theorem steps_rxWords_of_isFrame_append (mid post : List Byte) (s : State) (tail : List Input)
    (hopen : s.ctrl = .opened) (hframe : isFrame (s.rxBuf ++ (mid ++ post)) = true) (hpost : post ≠ []) :
    steps mid.length (s.withInputs (rxWords (mid ++ post) ++ tail)) =
      .next { s with rxBuf := s.rxBuf ++ mid, inputs := rxWords post ++ tail } := by
  induction mid generalizing s with
  | nil => simp [steps, State.withInputs]
  | cons b mid ih =>
    have hassoc : s.rxBuf ++ (b :: mid ++ post) = s.rxBuf ++ [b] ++ (mid ++ post) := by simp
    have hwait : microStep (s.rxBuf ++ [b]) = .wait :=
      microStep_eq_wait_of_isFrame_append (hassoc ▸ hframe) (by simp [hpost])
    have hrest := ih { s with rxBuf := s.rxBuf ++ [b] } hopen (hassoc ▸ hframe)
    simp only [List.cons_append, rxWords_cons, List.length_cons, steps, step_rxWord_of_wait hopen hwait, andThen_next,
      hrest, List.append_assoc, List.nil_append]

/-- The bytes that complete the frame held in the buffer put it out, once, at the last of them. -/
theorem steps_rxWords_of_isFrame (bytes : List Byte) (s : State) (tail : List Input) (hopen : s.ctrl = .opened)
    (hphase : s.txPhase ≠ .waitEcho) (hframe : isFrame (s.rxBuf ++ bytes) = true) (hbytes : bytes ≠ []) :
    steps bytes.length (s.withInputs (rxWords bytes ++ tail)) =
      .next { s with rxBuf := [], inputs := tail, trace := s.trace ++ [.frameOut (s.rxBuf ++ bytes)] } := by
  induction bytes generalizing s with
  | nil => exact absurd rfl hbytes
  | cons b rest ih =>
    simp only [List.cons_append, rxWords_cons, List.length_cons, steps]
    by_cases hlast : rest = []
    · subst hlast
      exact congrArg (andThen · (steps 0)) (step_rxWord_of_isFrame hopen hphase hframe tail)
    · have hassoc : s.rxBuf ++ b :: rest = s.rxBuf ++ [b] ++ rest := by simp
      have hwait : microStep (s.rxBuf ++ [b]) = .wait :=
        microStep_eq_wait_of_isFrame_append (hassoc ▸ hframe) hlast
      rw [step_rxWord_of_wait hopen hwait, hassoc]
      exact ih { s with rxBuf := s.rxBuf ++ [b] } hopen hphase (hassoc ▸ hframe) hlast

/-- Settles O26: every proper beginning of ENCODE(m) is waited on, and the last byte completes the frame. -/
theorem roundTripByteByByte : Obligations.RoundTripByteByByte := by
  intro m s tail hvalid hopen hbuf hphase
  have hframe : isFrame (s.rxBuf ++ frameOfMessage m) = true := by
    rw [hbuf]
    exact isFrame_frameOfMessage hvalid
  refine ⟨fun k hk => ?_, ?_⟩
  · have hheld := steps_rxWords_of_isFrame_append ((frameOfMessage m).take k) ((frameOfMessage m).drop k) s tail hopen
      (by rwa [List.take_append_drop]) (by simpa using hk)
    simpa [hbuf, hk.le, State.withInputs] using hheld
  · have hout := steps_rxWords_of_isFrame (frameOfMessage m) s tail hopen hphase hframe (by simp [frameOfMessage])
    simpa [hbuf, State.withInputs] using hout

/-- A wire row that is a valid frame: its step holds the opcode, and a step for each other byte puts the frame out. -/
theorem receiveRow_of_isFrame {s : State} (hopen : s.ctrl = .opened) (hbuf : s.rxBuf = [])
    (hphase : s.txPhase ≠ .waitEcho) {op : Byte} {rest : List Byte} (hframe : isFrame (op :: rest) = true) :
    ∃ t, receiveRow op rest s = .next t ∧ t = { s with rxBuf := [op], inputs := rxWords rest ++ s.inputs } ∧
      steps rest.length t = .next { s with trace := s.trace ++ [.frameOut (op :: rest)] } := by
  have hrest : rest ≠ [] := by
    rintro rfl
    exact absurd (isFrame_length _ hframe).1 (by simp)
  have hwait : microStep [op] = .wait := microStep_eq_wait_of_isFrame_append (pre := [op]) hframe hrest
  refine ⟨_, ?_, rfl, ?_⟩
  · have hreceive : receiveRow op rest s = _ :=
      receiveByte_of_wait (s := s.withBytes rest) hopen (by simpa [hbuf] using hwait)
    rw [hreceive, State.withBytes_rxBuf, hbuf]
    rfl
  · have hout := steps_rxWords_of_isFrame rest { s with rxBuf := [op] } s.inputs hopen hphase hframe hrest
    simpa [State.withInputs, hbuf] using hout

/-- Settles O24: the four rows of a valid frame receive its opcode and leave its other bytes; a data byte is noise. -/
theorem validWireFramesAreDelivered : Obligations.ValidWireFramesAreDelivered := by
  intro s hopen hbuf hphase
  refine ⟨fun op cks h => ?_, fun op p0 p1 cks h => ?_, fun op p0 p1 p2 p3 cks h => ?_, fun op len body h => ?_,
    fun b h => (receiveByte_of_data hopen hbuf h).trans (by rw [← hbuf])⟩
  · exact receiveRow_of_isFrame hopen hbuf hphase h
  · exact receiveRow_of_isFrame hopen hbuf hphase h
  · exact receiveRow_of_isFrame hopen hbuf hphase h
  · rw [Nat.add_comm]
    exact receiveRow_of_isFrame hopen hbuf hphase h

end Sys2Proof.Machine
end

section
/-! The obligations of 42_decoder.md on DECODE: its micro-steps (R79-R83), its loop (R78), where it stops (R84) and what
it puts out (R81, 20_memory.md R44); and bytes while the block is closed (R86). -/

namespace Sys2Proof.Machine

/-- Settles O14: a closed block leaves a received byte alone. -/
theorem closedBlockIgnoresBytes : Obligations.ClosedBlockIgnoresBytes := fun b s hclosed => receiveByte_closed b s hclosed

/-! ### The micro-step of a candidate (R79-R83) -/

section
variable {op : Byte} {rest : List Byte} (hop : isOpcode op = true)
include hop

theorem microStep_of_badLen (hlen : expLen (op :: rest) = .badLen) : microStep (op :: rest) = .badLen := by
  simp [microStep, hop, hlen]

variable {n : Nat} (hlen : expLen (op :: rest) = .len n) (hall : n ≤ (op :: rest).length)
include hlen hall

theorem microStep_of_checksumOk (hcheck : checksumOk ((op :: rest).take n) = true) :
    microStep (op :: rest) = .accept n := by
  simp only [microStep, hop, hlen, hall.not_gt, hcheck, if_true, if_false]

theorem microStep_of_checksum_error (hcheck : checksumOk ((op :: rest).take n) = false) :
    microStep (op :: rest) = .resync := by
  simp only [microStep, hop, hlen, hall.not_gt, hcheck, if_true, if_false, Bool.false_eq_true]

end

theorem expLen_of_illegal_length {op len : Byte} (hclass : lengthClass op = .var) (hlen : legalLen len = false)
    (rest : List Byte) : expLen (op :: len :: rest) = .badLen := by
  simp [expLen, hclass, hlen]

/-! ### The micro-operations run on their own -/

section
variable {s : State}

theorem exec_dNoise_of_noise (h : microStep s.rxBuf = .noise) :
    exec .dNoise s = .next (s.withDecoder s.decoder.dropOne) :=
  if_pos h

theorem exec_dResync_of_resync (h : microStep s.rxBuf = .resync) :
    exec .dResync s = .next (s.withDecoder s.decoder.dropOne) :=
  if_pos h

theorem exec_dBadLen_of_badLen (h : microStep s.rxBuf = .badLen) :
    exec .dBadLen s = .next (s.withDecoder s.decoder.dropOne) :=
  if_pos h

theorem exec_dWait_of_wait (h : microStep s.rxBuf = .wait) : exec .dWait s = .next s :=
  if_pos h

theorem exec_dAccept_of_accept {n : Nat} (h : microStep s.rxBuf = .accept n) :
    exec (.dAccept n) s = .next { s with rxBuf := s.rxBuf.drop n, result := .frame (s.rxBuf.take n) } :=
  if_pos h

theorem withDecoder_dropOne_of_cons {b : Byte} {rest : List Byte} (hbuf : s.rxBuf = b :: rest) :
    s.withDecoder s.decoder.dropOne = { s with rxBuf := rest, dropCount := s.dropCount + 1 } := by
  simp [State.withDecoder, hbuf]

end

/-- Settles O15: on its Operands line each of the three drops the byte at the head and counts it. -/
theorem dropMicroStepsDropOneByte : Obligations.DropMicroStepsDropOneByte := by
  refine ⟨fun s b rest hbuf hdata => ?_, fun s op rest n hbuf hop hlen hall hcheck => ?_,
    fun s op len rest hbuf hvar hbad => ?_⟩
  · rw [exec_dNoise_of_noise (hbuf ▸ microStep_of_data hdata rest), withDecoder_dropOne_of_cons hbuf]
  · rw [hbuf] at hlen hall hcheck
    rw [exec_dResync_of_resync (hbuf ▸ microStep_of_checksum_error hop hlen hall hcheck),
      withDecoder_dropOne_of_cons hbuf]
  · have hop : isOpcode op = true := (isOpcode_iff op).2 (by omega)
    have hlegal : legalLen len = false := by
      rw [← Bool.not_eq_true, legalLen_iff]
      omega
    have hlen := expLen_of_illegal_length ((lengthClass_eq_var_iff hop).2 hvar) hlegal rest
    rw [exec_dBadLen_of_badLen (hbuf ▸ microStep_of_badLen hop hlen), withDecoder_dropOne_of_cons hbuf]

/-- Settles O16: the decoder waits on the operands of D_WAIT and accepts on those of D_ACCEPT. -/
theorem waitAndAcceptMicroSteps : Obligations.WaitAndAcceptMicroSteps := by
  refine ⟨fun s hbuf => exec_dWait_of_wait (hbuf ▸ microStep_nil), fun s op rest hbuf hop hshort => ?_,
    fun s op rest n hbuf hop hlen hall hcheck => ?_⟩
  · rw [hbuf] at hshort
    apply exec_dWait_of_wait
    rw [hbuf, microStep_eq_wait_iff]
    obtain hmore | hlt := hshort
    · obtain ⟨rfl, -⟩ := expLen_needMore op rest hmore
      exact .inr ⟨hop, .inl ⟨hmore, rfl⟩⟩
    · exact .inr ⟨hop, .inr hlt⟩
  · rw [hbuf] at hlen hall hcheck
    exact exec_dAccept_of_accept (hbuf ▸ microStep_of_checksumOk hop hlen hall hcheck)

/-! ### DECODE one pass unrolled (R78) -/

theorem decodeAll_of_drop {d : Decoder} {b : Byte} {rest : List Byte} (hbuf : d.rxBuf = b :: rest)
    (hm : microStep (b :: rest) = .noise ∨ microStep (b :: rest) = .badLen ∨ microStep (b :: rest) = .resync) :
    decodeAll d = decodeAll { d with rxBuf := rest, dropCount := d.dropCount + 1 } := by
  have hpass : Pass d d.dropOne := .drop (by simp [hbuf]) (hbuf ▸ hm)
  rw [decodeAll_of_pass hpass]
  simp [Decoder.dropOne, hbuf]

theorem decodeAll_of_accept {d : Decoder} {n : Nat} (hm : microStep d.rxBuf = .accept n) :
    decodeAll d = decodeAll { d with rxBuf := d.rxBuf.drop n, out := d.out ++ [d.rxBuf.take n] } :=
  decodeAll_of_pass (.accept n hm)

/-- Settles O17: each case of the pseudocode is the case of one micro-step, which returns or makes one pass. -/
theorem decodeIsTheLoop : Obligations.DecodeIsTheLoop := by
  refine ⟨fun ⟨buf, count, out⟩ => ?_, fun _ => rfl⟩
  cases buf with
  | nil => exact decodeAll_of_wait _ rfl
  | cons op rest =>
    cases hop : isOpcode op with
    | false =>
      simp only [hop, if_true]
      exact decodeAll_of_drop rfl (.inl (microStep_of_data hop rest))
    | true =>
      cases hlen : expLen (op :: rest) with
      | needMore =>
        obtain ⟨rfl, -⟩ := expLen_needMore op rest hlen
        simp only [hop, hlen, Bool.true_eq_false, if_false]
        exact decodeAll_of_wait _ ((microStep_eq_wait_iff _).2 (.inr ⟨hop, .inl ⟨hlen, rfl⟩⟩))
      | badLen =>
        simp only [hop, hlen, Bool.true_eq_false, if_false]
        exact decodeAll_of_drop rfl (.inr (.inl (microStep_of_badLen hop hlen)))
      | len n =>
        by_cases hshort : (op :: rest).length < n
        · simp only [hop, hlen, hshort, Bool.true_eq_false, if_true, if_false]
          exact decodeAll_of_wait _ ((microStep_eq_wait_iff _).2 (.inr ⟨hop, .inr ⟨n, hlen, hshort⟩⟩))
        · have hall : n ≤ (op :: rest).length := Nat.not_lt.1 hshort
          cases hcheck : checksumOk ((op :: rest).take n) with
          | true =>
            simp only [hop, hlen, hshort, hcheck, Bool.true_eq_false, if_true, if_false]
            exact decodeAll_of_accept (microStep_of_checksumOk hop hlen hall hcheck)
          | false =>
            simp only [hop, hlen, hshort, hcheck, Bool.true_eq_false, Bool.false_eq_true, if_false]
            exact decodeAll_of_drop rfl (.inr (.inr (microStep_of_checksum_error hop hlen hall hcheck)))

/-! ### Where DECODE stops (R84) -/

/-- Settles O18: DECODE stops where the decoder waits, and one more byte still fits. -/
theorem decoderQuiescence : Obligations.DecoderQuiescence := by
  intro d b
  have hwait := decodeAll_waits d
  have hroom := length_le_of_microStep_wait hwait
  refine ⟨?_, hroom, by simp [Nat.lt_succ_of_le hroom]⟩
  obtain hempty | ⟨hop, ⟨hmore, hone⟩ | hshort⟩ := (microStep_eq_wait_iff _).1 hwait
  · exact .inl hempty
  · obtain ⟨op, halone⟩ := List.length_eq_one_iff.1 hone
    rw [halone] at hmore
    exact .inr ⟨hop, .inl ⟨op, halone, (expLen_needMore op [] hmore).2⟩⟩
  · exact .inr ⟨hop, .inr hshort⟩

/-! ### What DECODE puts out (R81, R44) -/

/-- The first bytes of a candidate, as many as its head asks for, ask for the same. -/
theorem expLen_take {l : List Byte} {n : Nat} (h : expLen l = .len n) : expLen (l.take n) = .len n := by
  obtain ⟨hlow, -⟩ := expLen_range l n h
  match l, n, hlow with
  | [], _, _ => cases h
  | [op], k + 2, _ => simpa using h
  | op :: len :: rest, k + 2, _ => exact h

/-- D_ACCEPT takes a valid frame. -/
theorem isFrame_take_of_accept {buf : List Byte} {n : Nat} (h : microStep buf = .accept n) :
    isFrame (buf.take n) = true := by
  obtain ⟨hop, hlen, hlow, hall, hcheck⟩ := microStep_accept h
  have hn : n ≠ 0 := by omega
  have hhead : (buf.take n).headD 0 = buf.headD 0 := by
    simp only [List.headD_eq_head?_getD, List.head?_take, hn, if_false]
  exact (isFrame_iff _).2 ⟨hhead ▸ hop, by rw [expLen_take hlen, List.length_take_of_le hall],
    (checksumOk_iff _).1 hcheck⟩

/-- `t` has put out, beside what `d` had, valid frames from the bytes `d` holds, in their order, and holds an end of
those bytes. -/
def PutsOut (d t : Decoder) : Prop :=
  ∃ fs : List Frame, t.out = d.out ++ fs ∧ (∀ f ∈ fs, isFrame f = true ∧ f <:+: d.rxBuf) ∧
    (fs.flatten ++ t.rxBuf).Sublist d.rxBuf ∧ t.rxBuf <:+ d.rxBuf

theorem PutsOut.pass {d e t : Decoder} (hp : Pass d e) (h : PutsOut e t) : PutsOut d t := by
  obtain ⟨fs, hout, hfs, hsub, hsuffix⟩ := h
  cases hp with
  | drop =>
    have hdrop : d.dropOne.rxBuf <:+ d.rxBuf := List.drop_suffix 1 d.rxBuf
    exact ⟨fs, hout, fun f hf => ⟨(hfs f hf).1, (hfs f hf).2.trans hdrop.isInfix⟩, hsub.trans hdrop.sublist,
      hsuffix.trans hdrop⟩
  | accept n hm =>
    have hdrop : (d.accept n).rxBuf <:+ d.rxBuf := List.drop_suffix n d.rxBuf
    refine ⟨d.rxBuf.take n :: fs, by simp [hout], ?_, ?_, hsuffix.trans hdrop⟩
    · refine List.forall_mem_cons.2 ⟨⟨isFrame_take_of_accept hm, (List.take_prefix n d.rxBuf).isInfix⟩, ?_⟩
      exact fun f hf => ⟨(hfs f hf).1, (hfs f hf).2.trans hdrop.isInfix⟩
    · calc (d.rxBuf.take n :: fs).flatten ++ t.rxBuf
          = d.rxBuf.take n ++ (fs.flatten ++ t.rxBuf) := by simp
        List.Sublist _ (d.rxBuf.take n ++ d.rxBuf.drop n) := hsub.append_left _
        _ = d.rxBuf := List.take_append_drop n d.rxBuf

theorem decodeAll_putsOut (d : Decoder) : PutsOut d (decodeAll d) :=
  decodeAll_induction (P := PutsOut) (fun _ _ => ⟨[], by simp, by simp, by simp, List.suffix_rfl⟩)
    (fun _ _ _ => PutsOut.pass) d

/-- Settles O20: every pass drops the head or moves a valid frame from the head to the output. -/
theorem decoderPutsOutValidFramesInOrder : Obligations.DecoderPutsOutValidFramesInOrder := by
  intro buf count
  obtain ⟨fs, hout, hfs, hsub, hsuffix⟩ := decodeAll_putsOut { rxBuf := buf, dropCount := count, out := [] }
  obtain rfl := hout
  exact ⟨hfs, hsub, hsuffix⟩

end Sys2Proof.Machine
end

section
/-! The obligations of 42_decoder.md on RX_BYTE and the wire rows (R77), with what 43_echo_collision.md says of the
frames decoded (R91, R92). -/

namespace Sys2Proof.Machine

/-! ### RX_BYTE of an open block, outcome by outcome -/

/-- Settles O21: outside WAIT_ECHO every frame decoded is forwarded. -/
theorem receiveForwardsEveryFrame : Obligations.ReceiveForwardsEveryFrame := by
  intro b s hopen hroom hphase
  have hreceive : exec (.rxByte b) s = _ := receiveByte_opened b s hopen hroom
  rw [hreceive]
  exact dispatchAll_forward _ (s.withDecoder _) hphase

section
variable {s t : State}

/-- Frames after one that ended or failed the attempt are ordinary inbound traffic (60_exceptions.md R112). -/
theorem dispatchAll_cons_forward {f : Frame} {rest : List Frame} (hf : dispatchFrame f s = .next t)
    (hphase : t.txPhase ≠ .waitEcho) :
    dispatchAll (f :: rest) s = .next { t with trace := t.trace ++ rest.map .frameOut } := by
  rw [dispatchAll, hf, andThen_next, dispatchAll_forward rest t hphase]

variable (hphase : s.txPhase = .waitEcho)
include hphase

theorem dispatchFrame_of_echo {f : Frame} (hecho : s.pending = some f) :
    dispatchFrame f s = .next (s.endSend.report .ok) := by
  simp [dispatchFrame, hphase, hecho]

theorem dispatchFrame_of_foreign {f : Frame} (hforeign : s.pending ≠ some f) :
    dispatchFrame f s = failAttempt .collision (s.emit (.frameOut f)) := by
  simp [dispatchFrame, hphase, hforeign]

end

theorem failAttempt_of_attempt_left {s : State} {c : Config} (kind : FailKind) (hcfg : s.cfg = some c)
    (hleft : s.attempt.toNat < c.maxAttempts.toNat) :
    failAttempt kind s = .next { s with pending := none, lastFail := some kind, txPhase := .backoff } := by
  simp [failAttempt, hcfg, BitVec.lt_def, hleft]

theorem failAttempt_of_last_attempt {s : State} {c : Config} (kind : FailKind) (hcfg : s.cfg = some c)
    (hlast : ¬ s.attempt.toNat < c.maxAttempts.toNat) :
    failAttempt kind s = .next (s.endSend.report (finalStatus kind)) := by
  simp [failAttempt, hcfg, BitVec.lt_def, hlast]

/-- Settles O22: the first frame is the echo, or it is foreign with an attempt left, or with none; each leaves WAIT_ECHO,
so the later frames are forwarded. -/
theorem receiveComparesFirstFrame : Obligations.ReceiveComparesFirstFrame := by
  intro b s c d hopen hroom hphase hcfg hd
  have hreceive : exec (.rxByte b) s = dispatchAll d.out (s.withDecoder d) := by
    subst hd
    exact receiveByte_opened b s hopen hroom
  rw [hreceive]
  cases hout : d.out with
  | nil => rfl
  | cons f rest =>
    by_cases hecho : s.pending = some f
    · have hdone := dispatchFrame_of_echo (s := s.withDecoder d) hphase hecho
      rw [dispatchAll_cons_forward hdone (by simp)]
      simp [hecho, State.report, State.emit, State.endSend, State.withDecoder]
    · have hforeign := dispatchFrame_of_foreign (s := s.withDecoder d) hphase hecho
      by_cases hleft : s.attempt.toNat < c.maxAttempts.toNat
      · have hretry := hforeign.trans (failAttempt_of_attempt_left .collision hcfg hleft)
        rw [dispatchAll_cons_forward hretry (by simp)]
        simp [hecho, hleft, State.emit, State.withDecoder]
      · have hended := hforeign.trans (failAttempt_of_last_attempt .collision hcfg hleft)
        rw [dispatchAll_cons_forward hended (by simp)]
        simp [hecho, hleft, State.report, State.emit, State.endSend, State.withDecoder, finalStatus]

/-! ### Receiving completes in every state of the invariant -/

theorem failAttempt_completes (kind : FailKind) {s : State} {c : Config} (hcfg : s.cfg = some c) :
    ∃ t, failAttempt kind s = .next t := by
  by_cases hleft : s.attempt.toNat < c.maxAttempts.toNat
  · exact ⟨_, failAttempt_of_attempt_left kind hcfg hleft⟩
  · exact ⟨_, failAttempt_of_last_attempt kind hcfg hleft⟩

theorem dispatchFrame_completes (f : Frame) {s : State} (h : s.SendOk) : ∃ t, dispatchFrame f s = .next t := by
  by_cases hphase : s.txPhase = .waitEcho
  · by_cases hecho : s.pending = some f
    · exact ⟨_, dispatchFrame_of_echo hphase hecho⟩
    · obtain ⟨c, -, hcfg, -⟩ := (State.sendOk_waitEcho hphase).1 h
      rw [dispatchFrame_of_foreign hphase hecho]
      exact failAttempt_completes .collision hcfg
  · exact ⟨_, if_neg hphase⟩

theorem dispatchAll_completes (fs : List Frame) {s : State} (h : s.SendOk) : ∃ t, dispatchAll fs s = .next t := by
  induction fs generalizing s with
  | nil => exact ⟨s, rfl⟩
  | cons f fs ih =>
    obtain ⟨t, ht⟩ := dispatchFrame_completes f h
    obtain ⟨u, hu⟩ := ih (dispatchFrame_sendOk h ht)
    exact ⟨u, by rw [dispatchAll, ht, andThen_next, hu]⟩

theorem receiveRow_completes (b : Byte) (rest : List Byte) {s : State} (h : Inv s) :
    ∃ t, receiveRow b rest s = .next t := by
  cases hctrl : s.ctrl with
  | closed => exact ⟨_, receiveRow_closed b rest s hctrl⟩
  | opened =>
    rw [receiveRow_opened b rest s hctrl h.bufferRoom]
    exact dispatchAll_completes _ ((h.withInputs _).sendOk.withDecoder _)

/-! ### What receiving leaves as it is -/

/-- The coming events and the model's `result` are as they were, and the outputs added are no writes to the wire. -/
def KeepsWire (s t : State) : Prop :=
  t.inputs = s.inputs ∧ t.result = s.result ∧ ∃ seg, t.trace = s.trace ++ seg ∧ ∀ f, .wireTx f ∉ seg

theorem KeepsWire.refl (s : State) : KeepsWire s s := ⟨rfl, rfl, [], by simp, by simp⟩

theorem KeepsWire.trans {s t u : State} (h : KeepsWire s t) (h' : KeepsWire t u) : KeepsWire s u := by
  obtain ⟨hinputs, hresult, seg, ht, hseg⟩ := h
  obtain ⟨hinputs', hresult', seg', hu, hseg'⟩ := h'
  exact ⟨hinputs'.trans hinputs, hresult'.trans hresult, seg ++ seg', by rw [hu, ht, List.append_assoc],
    fun f hf => (List.mem_append.1 hf).elim (hseg f) (hseg' f)⟩

theorem keepsWire_emit_frameOut (s : State) (f : Frame) : KeepsWire s (s.emit (.frameOut f)) :=
  ⟨rfl, rfl, [.frameOut f], rfl, by simp⟩

theorem keepsWire_endSend_report (s : State) (st : Status) : KeepsWire s (s.endSend.report st) :=
  ⟨rfl, rfl, [.txDone st], rfl, by simp⟩

theorem failAttempt_keepsWire {kind : FailKind} {s t : State} (h : failAttempt kind s = .next t) : KeepsWire s t := by
  obtain ⟨c, -, ⟨-, rfl⟩ | ⟨-, rfl⟩⟩ := failAttempt_next h
  · exact ⟨rfl, rfl, [], by simp, by simp⟩
  · exact keepsWire_endSend_report s _

theorem dispatchFrame_keepsWire {f : Frame} {s t : State} (h : dispatchFrame f s = .next t) : KeepsWire s t := by
  obtain ⟨-, rfl⟩ | ⟨-, -, rfl⟩ | ⟨-, -, hfail⟩ := dispatchFrame_next h
  · exact keepsWire_emit_frameOut s f
  · exact keepsWire_endSend_report s _
  · exact (keepsWire_emit_frameOut s f).trans (failAttempt_keepsWire hfail)

theorem dispatchAll_keepsWire {fs : List Frame} {s t : State} (h : dispatchAll fs s = .next t) : KeepsWire s t :=
  dispatchAll_induction KeepsWire.refl (fun _ _ _ _ hf hu => (dispatchFrame_keepsWire hf).trans hu) h

/-- A row's other bytes come next; its first byte leaves the other events alone and writes nothing. -/
theorem receiveRow_keepsWire {b : Byte} {rest : List Byte} {s t : State} (h : receiveRow b rest s = .next t) :
    KeepsWire (s.withBytes rest) t := by
  obtain ⟨-, rfl⟩ | ⟨-, hall⟩ := receiveRow_next h
  · exact .refl _
  · exact dispatchAll_keepsWire (s := (s.withBytes rest).withDecoder _) hall

/-- Settles O25: every row is `receiveRow`, which completes where the invariant holds and keeps it. -/
theorem receivingAlwaysCompletes : Obligations.ReceivingAlwaysCompletes := by
  intro i b rest s hinv hrow
  have hexec : exec i s = receiveRow b rest s := by
    obtain ⟨rfl, rfl⟩ | ⟨rfl, rfl⟩ | ⟨_, rfl, rfl⟩ | ⟨_, _, _, rfl, rfl⟩ | ⟨_, _, _, _, _, rfl, rfl⟩ |
      ⟨_, _, rfl, rfl⟩ := hrow <;> rfl
  rw [hexec]
  obtain ⟨t, ht⟩ := receiveRow_completes b rest hinv
  obtain ⟨hctrl, hcfg, -⟩ := receiveRow_keepsSession ht
  obtain ⟨hinputs, hresult, seg, htrace, hseg⟩ := receiveRow_keepsWire ht
  exact ⟨t, seg, ht, receiveRow_inv hinv ht, hctrl, hcfg, hinputs, hresult, htrace, hseg⟩

end Sys2Proof.Machine
end

section
/-! The obligation of 42_decoder.md on a frame with one corrupt byte (R87): the candidate is rejected whole, since none of
its bytes but the first can start a frame. -/

namespace Sys2Proof.Machine

/-! ### Changing a data byte of a candidate -/

section
variable {op : Byte} {j : Nat} (hvar : lengthClass op = .var → j ≠ 0)
include hvar

/-- Changing a byte that is neither the opcode nor a length byte leaves the expected length. -/
theorem expLen_cons_set (rest : List Byte) (x : Byte) : expLen (op :: rest.set j x) = expLen (op :: rest) := by
  cases rest with
  | nil => rfl
  | cons b rest =>
    cases j with
    | succ j => rfl
    | zero => cases hclass : lengthClass op <;> simp_all [expLen]

theorem microStep_cons_set_of_wait {rest : List Byte} (x : Byte) (h : microStep (op :: rest) = .wait) :
    microStep (op :: rest.set j x) = .wait := by
  rw [microStep_eq_wait_iff] at h ⊢
  simpa [expLen_cons_set hvar] using h

/-- The decoder waits on every proper beginning of a frame with such a byte changed. -/
theorem microStep_take_corrupt {rest : List Byte} (hframe : isFrame (op :: rest) = true) (x : Byte) {k : Nat}
    (hk : k < (op :: rest).length) : microStep ((op :: rest.set j x).take k) = .wait := by
  cases k with
  | zero => rfl
  | succ k =>
    have hwait : microStep (op :: rest.take k) = .wait :=
      microStep_eq_wait_of_isFrame_append (post := rest.drop k) (by simpa using hframe) (by simpa using hk)
    rw [List.take_succ_cons, List.take_set]
    exact microStep_cons_set_of_wait hvar x hwait

end

/-! ### DECODE of bytes that no frame can start in -/

theorem dropCount_succ (count : DropCount) (n : Nat) :
    count + 1 + BitVec.ofNat 32 n = count + BitVec.ofNat 32 (n + 1) := by
  rw [BitVec.add_assoc, Nat.add_comm n 1, ← BitVec.ofNat_add_ofNat]
  rfl

theorem decodeAll_of_data {buf : List Byte} (h : ∀ b ∈ buf, isOpcode b = false) (count : DropCount)
    (out : List Frame) :
    decodeAll { rxBuf := buf, dropCount := count, out := out } =
      { rxBuf := [], dropCount := count + BitVec.ofNat 32 buf.length, out := out } := by
  induction buf generalizing count with
  | nil => simpa using decodeAll_of_wait _ microStep_nil
  | cons b rest ih =>
    obtain ⟨hb, hrest⟩ := List.forall_mem_cons.1 h
    rw [decodeAll_of_drop rfl (.inl (microStep_of_data hb rest)), ih hrest, dropCount_succ]
    rfl

/-- DECODE of exactly these bytes drops and counts them all. -/
def DropsWhole (c : List Byte) : Prop :=
  ∀ d : Decoder, d.rxBuf = c →
    decodeAll d = { d with rxBuf := [], dropCount := d.dropCount + BitVec.ofNat 32 c.length }

/-- A candidate that fails the check, with data bytes only after its opcode (R82, R79). -/
theorem dropsWhole_of_resync_data {op : Byte} {rest : List Byte} (hm : microStep (op :: rest) = .resync)
    (hdata : ∀ b ∈ rest, isOpcode b = false) : DropsWhole (op :: rest) := by
  intro d hbuf
  rw [decodeAll_of_drop hbuf (.inr (.inr hm)), decodeAll_of_data hdata, dropCount_succ]
  rfl

/-! ### The steps of waited-on and of rejected bytes -/

/-- Bytes on whose every beginning the decoder waits are held. -/
theorem steps_rxWords_of_wait (bytes : List Byte) (n : Nat) (s : State) (tail : List Input) (hopen : s.ctrl = .opened)
    (hwait : ∀ k ≤ bytes.length, microStep (s.rxBuf ++ bytes.take k) = .wait) :
    steps (bytes.length + n) (s.withInputs (rxWords bytes ++ tail)) =
      steps n ({ s with rxBuf := s.rxBuf ++ bytes }.withInputs tail) := by
  induction bytes generalizing s with
  | nil => simp [State.withInputs]
  | cons b rest ih =>
    have hfirst : microStep (s.rxBuf ++ [b]) = .wait := by simpa using hwait 1 (by simp)
    have hrest := ih { s with rxBuf := s.rxBuf ++ [b] } hopen fun k hk => by
      simpa using hwait (k + 1) (by simpa using hk)
    rw [List.length_cons, Nat.add_right_comm, rxWords_cons, List.cons_append, steps, step_rxWord_of_wait hopen hfirst,
      andThen_next, hrest, List.append_assoc, List.singleton_append]

theorem step_rxWord_of_dropsWhole {s : State} {b : Byte} (hopen : s.ctrl = .opened) (hroom : s.rxBuf.length ≤ 126)
    (hdrops : DropsWhole (s.rxBuf ++ [b])) (tail : List Input) :
    step (s.withInputs (plainEvent 1 b.toNat :: tail)) =
      .next ({ s with
        rxBuf := [], dropCount := s.dropCount + BitVec.ofNat 32 (s.rxBuf ++ [b]).length }.withInputs tail) := by
  rw [step_rxWord, receiveByte_opened b (s.withInputs tail) hopen hroom, hdrops _ rfl]
  rfl

/-- A candidate that DECODE drops whole, once it is all there, leaves nothing but its count. -/
theorem steps_rxWords_of_dropsWhole {c : List Byte} (hc : c ≠ []) (n : Nat) (s : State) (tail : List Input)
    (hopen : s.ctrl = .opened) (hbuf : s.rxBuf = []) (hwait : ∀ k < c.length, microStep (c.take k) = .wait)
    (hdrops : DropsWhole c) :
    steps (c.length + n) (s.withInputs (rxWords c ++ tail)) =
      steps n ({ s with dropCount := s.dropCount + BitVec.ofNat 32 c.length }.withInputs tail) := by
  obtain rfl | ⟨front, last, rfl⟩ := List.eq_nil_or_concat' c
  · exact absurd rfl hc
  have hheld : ∀ k ≤ front.length, microStep (s.rxBuf ++ front.take k) = .wait := fun k hk => by
    simpa [hbuf, List.take_append_of_le_length hk] using hwait k (by simpa using Nat.lt_succ_of_le hk)
  have hroom : (s.rxBuf ++ front).length ≤ 126 := length_le_of_microStep_wait (by simpa using hheld _ le_rfl)
  have hfront := steps_rxWords_of_wait front (n + 1) s (plainEvent 1 last.toNat :: tail) hopen hheld
  have hlast := step_rxWord_of_dropsWhole (s := { s with rxBuf := s.rxBuf ++ front }) hopen hroom
    (by simpa only [hbuf, List.nil_append] using hdrops) tail
  have hcount : (front ++ [last]).length + n = front.length + (n + 1) := by simp [Nat.add_comm n, Nat.add_assoc]
  rw [hcount, rxWords_append, List.append_assoc, rxWords_cons, rxWords_nil, List.singleton_append, hfront, steps, hlast,
    andThen_next]
  simp only [hbuf, List.nil_append]

/-- A frame with a data byte changed to another is still a candidate of its length, but fails the check. -/
theorem microStep_of_corrupt {op : Byte} {rest : List Byte} {j : Nat} {x : Byte} (hframe : isFrame (op :: rest) = true)
    (hvar : lengthClass op = .var → j ≠ 0) (hj : j < rest.length) (hne : rest[j]? ≠ some x) :
    microStep (op :: rest.set j x) = .resync := by
  obtain ⟨hop, hlen, hxor⟩ := (isFrame_iff _).1 hframe
  have hlen : expLen (op :: rest.set j x) = .len (op :: rest.set j x).length := by
    simpa [expLen_cons_set hvar] using hlen
  have hcheck : checksumOk (op :: rest.set j x) = false :=
    (checksumDetectsErrors (op :: rest) ((checksumOk_iff _).2 hxor)).2 (j + 1) x (Nat.succ_lt_succ hj) hne
  exact microStep_of_checksum_error hop hlen le_rfl (by rwa [List.take_length])

/-- Settles O27: the changed frame fails the check and is dropped whole, so the second frame meets an empty buffer. -/
theorem resynchronisesAfterOneCorruptByte : Obligations.ResynchronisesAfterOneCorruptByte := by
  intro a b i x s tail ha hb hdata hi hilt hx hne hvar hopen hbuf hphase
  obtain _ | ⟨op, rest⟩ := a
  · cases ha
  obtain _ | j := i
  · cases hi
  have hvar : lengthClass op = .var → j ≠ 0 := fun hclass => by simpa using hvar hclass
  have hresync := microStep_of_corrupt ha hvar (Nat.lt_of_succ_lt_succ hilt) hne
  have hdata : ∀ y ∈ rest.set j x, isOpcode y = false := fun y hy =>
    (List.mem_or_eq_of_mem_set hy).elim (hdata y) (fun h => h ▸ hx)
  have hlen : (op :: rest.set j x).length = (op :: rest).length := by simp
  have hdropped := steps_rxWords_of_dropsWhole (List.cons_ne_nil _ _) b.length s (rxWords b ++ tail) hopen hbuf
    (fun k hk => microStep_take_corrupt hvar ha x (hlen ▸ hk)) (dropsWhole_of_resync_data hresync hdata)
  have hout := steps_rxWords_of_isFrame b { s with dropCount := s.dropCount + BitVec.ofNat 32 (op :: rest).length } tail
    hopen hphase (by simpa [hbuf] using hb) (by rintro rfl; cases hb)
  rw [hlen, hout] at hdropped
  rw [List.set_cons_succ, rxWords_append, List.append_assoc]
  exact hdropped.trans (by simp [hbuf])

end Sys2Proof.Machine
end

section
/-! The obligations of 43_echo_collision.md on one event or operation: requests (R88, R89), TX_ISSUE (R90), DISPATCH
(R91), FAIL_ATTEMPT (R92), the timers (R93, R94) and cancellation (R96). -/

namespace Sys2Proof.Machine

/-! ### The sequencer's and the comparator's operations, case by case -/

/-- The state once TX_ISSUE has counted the attempt, written `f` and armed the comparator with it (R90). -/
def State.issued (s : State) (f : Frame) : State :=
  { s with attempt := s.attempt + 1, trace := s.trace ++ [.wireTx f], pending := some f, txPhase := .waitEcho }

/-- The state once an attempt that was not the last has failed (R92). -/
def State.backingOff (s : State) (kind : FailKind) : State :=
  { s with pending := none, lastFail := some kind, txPhase := .backoff }

/-- The state that a valid request gives to TX_ISSUE (R89). -/
def State.requesting (s : State) (m : Message) : State :=
  { s with curFrame := some (frameOfMessage m), attempt := 0, lastFail := none }

section
variable {s : State}

theorem txIssue_of_current {f : Frame} (hcur : s.curFrame = some f) : txIssue s = .next (s.issued f) := by
  simp [txIssue, hcur, State.issued]

theorem failAttempt_eq_backingOff {c : Config} (kind : FailKind) (hcfg : s.cfg = some c)
    (hleft : s.attempt.toNat < c.maxAttempts.toNat) : failAttempt kind s = .next (s.backingOff kind) :=
  failAttempt_of_attempt_left kind hcfg hleft

theorem dispatchFrame_of_not_waiting (hphase : s.txPhase ≠ .waitEcho) (f : Frame) :
    dispatchFrame f s = .next (s.emit (.frameOut f)) :=
  if_neg hphase

/-- Settles O31: TX_ISSUE has a current frame to write. -/
theorem issueWritesAndArms : Obligations.IssueWritesAndArms := fun _ _ => txIssue_of_current

/-- Settles O32: the frame meets a comparator that is not armed, or is the echo, or is foreign. -/
theorem dispatchDecidesOneFrame : Obligations.DispatchDecidesOneFrame := fun f _ =>
  ⟨fun hphase => dispatchFrame_of_not_waiting hphase f, fun hphase hecho => dispatchFrame_of_echo hphase hecho,
    fun hphase hforeign => dispatchFrame_of_foreign hphase hforeign⟩

/-- Settles O33: an attempt is left, or it was the last one and the failure's own kind is reported. -/
theorem failedAttemptRetriesOrReports : Obligations.FailedAttemptRetriesOrReports := by
  intro kind s c hcfg
  refine ⟨failAttempt_eq_backingOff kind hcfg, fun hlast => ?_⟩
  have hended : exec (.failAttempt kind) s = _ := failAttempt_of_last_attempt kind hcfg (Nat.not_lt.2 hlast)
  cases kind <;> exact hended

/-! ### The timers and the cancellation -/

theorem exec_echoTimeout_of_waiting (hopen : s.ctrl = .opened) (hphase : s.txPhase = .waitEcho) :
    exec .echoTimeout s = failAttempt .timeout s :=
  if_pos ⟨hopen, hphase⟩

theorem exec_echoTimeout_of_stale (h : s.ctrl = .closed ∨ s.txPhase ≠ .waitEcho) : exec .echoTimeout s = .next s := by
  refine if_neg fun ⟨hopen, hphase⟩ => ?_
  simp [hopen, hphase] at h

theorem exec_backoffDone_of_backoff (hopen : s.ctrl = .opened) (hphase : s.txPhase = .backoff) :
    exec .backoffDone s = txIssue s :=
  if_pos ⟨hopen, hphase⟩

theorem exec_backoffDone_of_current {f : Frame} (hopen : s.ctrl = .opened) (hphase : s.txPhase = .backoff)
    (hcur : s.curFrame = some f) : exec .backoffDone s = .next (s.issued f) :=
  (exec_backoffDone_of_backoff hopen hphase).trans (txIssue_of_current hcur)

theorem exec_backoffDone_of_stale (h : s.ctrl = .closed ∨ s.txPhase ≠ .backoff) : exec .backoffDone s = .next s := by
  refine if_neg fun ⟨hopen, hphase⟩ => ?_
  simp [hopen, hphase] at h

theorem exec_txCancel_of_busy (hopen : s.ctrl = .opened) (hbusy : s.txPhase ≠ .idle) :
    exec .txCancel s = .next (s.endSend.report .cancelled) :=
  if_pos (by simp [hopen, hbusy])

theorem exec_txCancel_of_stale (h : s.ctrl = .closed ∨ s.txPhase = .idle) : exec .txCancel s = .next s := by
  refine if_neg fun hboth => ?_
  obtain ⟨hopen, hbusy⟩ : s.ctrl = .opened ∧ s.txPhase ≠ .idle := by simpa using hboth
  simp [hopen, hbusy] at h

/-! ### Requests -/

theorem exec_txReq_of_closed (m : Message) (hclosed : s.ctrl = .closed) :
    exec (.txReq m) s = .next (s.report .closed) := by
  simp [exec, execTxReq, hclosed]

/-- A request is held while a send is in progress, valid or not (43_echo_collision.md R88, log entry 2). -/
theorem exec_txReq_of_busy (m : Message) (hopen : s.ctrl = .opened) (hbusy : s.txPhase ≠ .idle) :
    exec (.txReq m) s = .next (s.holdRequest m) := by
  have hheld : s.requestHeld = true := s.requestHeld_eq_true.2 ⟨hopen, hbusy⟩
  simp [exec, execTxReq, hopen, hheld]

theorem requestHeld_eq_false_of_idle (hidle : s.txPhase = .idle) : s.requestHeld = false := by
  simp [State.requestHeld, hidle]

theorem exec_txReq_of_error {m : Message} {e : MsgError} (hopen : s.ctrl = .opened) (hidle : s.txPhase = .idle)
    (herror : messageError m = some e) : exec (.txReq m) s = .next (s.report e.status) := by
  simp [exec, execTxReq, hopen, requestHeld_eq_false_of_idle hidle, herror]

theorem exec_txReq_of_valid {m : Message} (hopen : s.ctrl = .opened) (hidle : s.txPhase = .idle)
    (hvalid : messageError m = none) :
    exec (.txReq m) s = .next ((s.requesting m).issued (frameOfMessage m)) :=
  (execTxReq_issues hopen (requestHeld_eq_false_of_idle hidle) hvalid).trans (txIssue_of_current rfl)

end

/-! The order of the checks (60_exceptions.md R112 item 1) -/

theorem messageError_of_op_low {m : Message} (hop : m.op.toNat < 0x80) : messageError m = some .invalidOpcode := by
  have hdata : ¬ isOpcode m.op = true := by rw [isOpcode_iff]; omega
  simp [messageError, hdata]

theorem messageError_of_length {m : Message} (hop : 0x80 ≤ m.op.toNat) (hneed : payloadNeed m ≠ some m.payload.length) :
    messageError m = some .invalidLength := by
  simp [messageError, (isOpcode_iff m.op).2 hop, hneed]

/-- Settles O28: the request is issued at once. -/
theorem requestStartsSend : Obligations.RequestStartsSend :=
  fun _ _ => exec_txReq_of_valid

/-- Settles O29: each error is the first check that fails. -/
theorem requestErrorsInOrder : Obligations.RequestErrorsInOrder := fun m _ =>
  ⟨exec_txReq_of_closed m,
    fun hopen hidle hop => exec_txReq_of_error hopen hidle (messageError_of_op_low hop),
    fun hopen hidle hop hneed => exec_txReq_of_error hopen hidle (messageError_of_length hop hneed)⟩

/-- Settles O34: a timeout fails the attempt exactly where an open block awaits the echo. -/
theorem echoTimeoutFailsAttempt : Obligations.EchoTimeoutFailsAttempt := by
  refine ⟨fun _ _ => rfl, fun s => ⟨?_, ?_, exec_echoTimeout_of_stale⟩⟩
  · intro c hopen hphase hcfg hleft
    rw [exec_echoTimeout_of_waiting hopen hphase]
    exact failAttempt_eq_backingOff .timeout hcfg hleft
  · intro c hopen hphase hcfg hlast
    rw [exec_echoTimeout_of_waiting hopen hphase]
    exact failAttempt_of_last_attempt .timeout hcfg (Nat.not_lt.2 hlast)

/-- Settles O35: the end of a backoff is TX_ISSUE of the current frame. -/
theorem backoffDoneRetries : Obligations.BackoffDoneRetries :=
  ⟨fun _ _ => rfl, fun _ => ⟨fun _ => exec_backoffDone_of_current, exec_backoffDone_of_stale⟩⟩

/-- Settles O36: a cancellation ends the send exactly where one is in progress. -/
theorem cancelEndsSend : Obligations.CancelEndsSend :=
  ⟨fun _ _ => rfl, fun _ => ⟨exec_txCancel_of_busy, exec_txCancel_of_stale⟩⟩

/-! ### Which event is taken while requests are held (R88) -/

section
variable {s : State} {w : EventWord} (hword : w ≠ eventWord 2 0)
include hword

theorem inputEnabled_of_not_request (m : Message) (c : Config) : inputEnabled s (.event w m c) = true := by
  simp [inputEnabled, hword]

/-- An event that is no request is taken from behind the inputs that are held. -/
theorem step_of_held_prefix {held rest : List Input} {m : Message} {c : Config}
    (hs : s.inputs = held ++ .event w m c :: rest) (hheld : ∀ x ∈ held, inputEnabled s x = false) :
    step s = exec (decodeEvent w m c) (s.withInputs (held ++ rest)) := by
  rw [step_of_fetch (fetch_of_first_enabled hs hheld (inputEnabled_of_not_request hword m c))]
  simp [decodeInput, State.withInputs]

end

/-- Settles O30: a request is not enabled while a send is in progress, so the step passes it over. -/
theorem requestsAreHeldWhileBusy : Obligations.RequestsAreHeldWhileBusy := by
  intro s held rest hopen hbusy hrequests
  have hheld (l : List Input) : ∀ x ∈ held, inputEnabled (s.withInputs l) x = false := by
    intro x hx
    exact (inputEnabled_eq_false _ x).2 ⟨hopen, hbusy, hrequests x hx⟩
  refine ⟨?_, fun w m c hword => ?_, fun m => exec_txReq_of_busy m hopen hbusy⟩
  · exact step_of_all_held (s := s.withInputs held) (hheld held)
  · exact step_of_held_prefix (s := s.withInputs _) hword rfl (hheld _)

end Sys2Proof.Machine
end

section
/-! The obligations of 43_echo_collision.md on runs of a send: the echo (R98), the late echo (R96, R97) and the send
whose attempts all fail (R99). -/

namespace Sys2Proof.Machine

/-! ### Runs and single events -/

theorem steps_add (m n : Nat) (s : State) : steps (m + n) s = andThen (steps m s) (steps n) := by
  induction m generalizing s with
  | zero => rw [Nat.zero_add]; rfl
  | succ m ih =>
    have hrest : steps (m + n) = fun t => andThen (steps m t) (steps n) := funext ih
    rw [Nat.add_right_comm, steps, steps, hrest, andThen_assoc]

theorem steps_of_step {s t : State} (h : step s = .next t) (n : Nat) : steps (1 + n) s = steps n t := by
  rw [Nat.add_comm, steps, h, andThen_next]

theorem andThen_next_self (o : Result) : andThen o .next = o := by
  cases o <;> rfl

/-- An event that is no request is taken at once. -/
theorem step_event {w : EventWord} (hword : w ≠ eventWord 2 0) (m : Message) (c : Config) (s : State)
    (tail : List Input) :
    step (s.withInputs (.event w m c :: tail)) = exec (decodeEvent w m c) (s.withInputs tail) :=
  step_of_held_prefix (s := s.withInputs _) (held := []) hword rfl (by simp)

theorem step_txCancel (s : State) (tail : List Input) :
    step (s.withInputs (plainEvent 3 0 :: tail)) = exec .txCancel (s.withInputs tail) :=
  step_event (by decide) _ _ s tail

theorem step_echoTimeout (s : State) (tail : List Input) :
    step (s.withInputs (plainEvent 4 0 :: tail)) = exec .echoTimeout (s.withInputs tail) :=
  step_event (by decide) _ _ s tail

theorem step_backoffDone (s : State) (tail : List Input) :
    step (s.withInputs (plainEvent 5 0 :: tail)) = exec .backoffDone (s.withInputs tail) :=
  step_event (by decide) _ _ s tail

/-- A request to an idle block is not held. -/
theorem step_txReq_of_idle {s : State} (hidle : s.txPhase = .idle) (m : Message) (tail : List Input) :
    step (s.withInputs (.event 0x200 m emptyConfig :: tail)) = exec (.txReq m) (s.withInputs tail) := by
  have hfree : (s.withInputs (.event 0x200 m emptyConfig :: tail)).requestHeld = false :=
    requestHeld_eq_false_of_idle hidle
  exact step_of_enabled_head s (by rw [inputEnabled, hfree, Bool.and_false, Bool.not_false])

/-! ### The bytes of one frame -/

/-- The last byte of a frame is DISPATCH of the frame on the emptied buffer, whatever the phase. -/
theorem step_rxWord_eq_dispatchFrame {s : State} {b : Byte} (hopen : s.ctrl = .opened)
    (hframe : isFrame (s.rxBuf ++ [b]) = true) (tail : List Input) :
    step (s.withInputs (plainEvent 1 b.toNat :: tail)) =
      dispatchFrame (s.rxBuf ++ [b]) ({ s with rxBuf := [] }.withInputs tail) := by
  have hroom := (isFrame_length _ hframe).2
  rw [List.length_append, List.length_singleton] at hroom
  have hroom : (s.withInputs tail).rxBuf.length ≤ 126 := by rw [State.withInputs_rxBuf]; omega
  rw [step_rxWord, receiveByte_opened b (s.withInputs tail) hopen hroom, State.withInputs_decoderWith,
    decodeAll_of_isFrame (d := s.decoderWith b) hframe]
  exact andThen_next_self _

/-- The bytes that complete the frame held in the buffer are DISPATCH of the frame. -/
theorem steps_rxWords_eq_dispatchFrame (bytes : List Byte) (s : State) (tail : List Input) (hopen : s.ctrl = .opened)
    (hframe : isFrame (s.rxBuf ++ bytes) = true) (hbytes : bytes ≠ []) :
    steps bytes.length (s.withInputs (rxWords bytes ++ tail)) =
      dispatchFrame (s.rxBuf ++ bytes) ({ s with rxBuf := [] }.withInputs tail) := by
  induction bytes generalizing s with
  | nil => exact absurd rfl hbytes
  | cons b rest ih =>
    simp only [List.cons_append, rxWords_cons, List.length_cons, steps]
    by_cases hlast : rest = []
    · subst hlast
      exact (andThen_next_self _).trans (step_rxWord_eq_dispatchFrame hopen hframe tail)
    · have hassoc : s.rxBuf ++ b :: rest = s.rxBuf ++ [b] ++ rest := by simp
      have hwait : microStep (s.rxBuf ++ [b]) = .wait :=
        microStep_eq_wait_of_isFrame_append (hassoc ▸ hframe) hlast
      rw [step_rxWord_of_wait hopen hwait, hassoc]
      exact ih { s with rxBuf := s.rxBuf ++ [b] } hopen (hassoc ▸ hframe) hlast

/-- A whole frame that meets an empty buffer. -/
theorem steps_frame {s : State} {f : Frame} (hopen : s.ctrl = .opened) (hbuf : s.rxBuf = []) (hframe : isFrame f = true)
    (tail : List Input) :
    steps f.length (s.withInputs (rxWords f ++ tail)) = dispatchFrame f (s.withInputs tail) := by
  have hne : f ≠ [] := by rintro rfl; cases hframe
  have hempty : { s with rxBuf := [] } = s := by rw [← hbuf]
  have hrun := steps_rxWords_eq_dispatchFrame f s tail hopen (by rwa [hbuf]) hne
  rwa [hempty, hbuf] at hrun

/-! ### The end of a send -/

/-- An idle block has nothing of a send to clear (R24-R26). -/
theorem Inv.endSend_of_idle {s : State} (h : Inv s) (hidle : s.txPhase = .idle) : s.endSend = s := by
  obtain ⟨hpending, hcur, hattempt, hfail⟩ := (State.sendOk_idle hidle).1 h.sendOk
  cases s
  simp_all [State.endSend]

/-! ### Echoes (R96-R98) -/

/-- A frame received while no echo is awaited is inbound traffic. -/
theorem steps_frame_forward {s : State} {f : Frame} (hopen : s.ctrl = .opened) (hbuf : s.rxBuf = [])
    (hframe : isFrame f = true) (hphase : s.txPhase ≠ .waitEcho) (tail : List Input) :
    steps f.length (s.withInputs (rxWords f ++ tail)) = .next ((s.emit (.frameOut f)).withInputs tail) :=
  (steps_frame hopen hbuf hframe tail).trans (dispatchFrame_of_not_waiting (s := s.withInputs tail) hphase f)

/-- The frame the comparator holds ends the send and is not put out. -/
theorem steps_frame_echo {s : State} {f : Frame} (hopen : s.ctrl = .opened) (hbuf : s.rxBuf = [])
    (hframe : isFrame f = true) (hphase : s.txPhase = .waitEcho) (hecho : s.pending = some f) (tail : List Input) :
    steps f.length (s.withInputs (rxWords f ++ tail)) = .next ((s.endSend.report .ok).withInputs tail) :=
  (steps_frame hopen hbuf hframe tail).trans (dispatchFrame_of_echo (s := s.withInputs tail) hphase hecho)

/-! ### The events of a send, in any state with inputs to come -/

section
variable {s : State} (hopen : s.ctrl = .opened) (l : List Input)
include hopen

theorem step_txReq_of_valid {m : Message} (hidle : s.txPhase = .idle) (hvalid : messageError m = none) :
    step (s.withInputs (.event 0x200 m emptyConfig :: l)) =
      .next (((s.requesting m).issued (frameOfMessage m)).withInputs l) :=
  (step_txReq_of_idle hidle m l).trans (exec_txReq_of_valid (s := s.withInputs l) hopen hidle hvalid)

theorem step_txCancel_of_busy (hbusy : s.txPhase ≠ .idle) :
    step (s.withInputs (plainEvent 3 0 :: l)) = .next ((s.endSend.report .cancelled).withInputs l) :=
  (step_txCancel s l).trans (exec_txCancel_of_busy (s := s.withInputs l) hopen hbusy)

theorem step_echoTimeout_of_waiting (hphase : s.txPhase = .waitEcho) :
    step (s.withInputs (plainEvent 4 0 :: l)) = failAttempt .timeout (s.withInputs l) :=
  (step_echoTimeout s l).trans (exec_echoTimeout_of_waiting (s := s.withInputs l) hopen hphase)

theorem step_backoffDone_of_current {f : Frame} (hphase : s.txPhase = .backoff) (hcur : s.curFrame = some f) :
    step (s.withInputs (plainEvent 5 0 :: l)) = .next ((s.issued f).withInputs l) :=
  (step_backoffDone s l).trans (exec_backoffDone_of_current (s := s.withInputs l) hopen hphase hcur)

end

/-- Settles O37: the cancellation disarms the comparator, so the frame meets an idle block. -/
theorem cancelledEchoIsInbound : Obligations.CancelledEchoIsInbound := by
  intro s f tail hinv hopen hbuf hcur
  have hbusy : s.txPhase ≠ .idle := hinv.currentIffBusy.1 (by simp [hcur])
  have hcancel := step_txCancel_of_busy hopen (rxWords f ++ tail) hbusy
  have hout := steps_frame_forward (s := s.endSend.report .cancelled) hopen hbuf (hinv.currentIsFrame f hcur) (by simp)
    tail
  refine (steps_of_step hcancel _).trans (hout.trans ?_)
  simp [State.emit, State.report, State.endSend, State.withInputs]

/-- Settles O38: after the timeout the comparator is not armed, after the backoff it is armed with the same frame. -/
theorem lateEchoMeetsBackoffOrNextAttempt : Obligations.LateEchoMeetsBackoffOrNextAttempt := by
  intro s c f tail hinv hphase hbuf hcfg hleft hpending
  obtain ⟨hopen, -⟩ := hinv.opened_of_busy (by simp [hphase])
  have hcur : s.curFrame = some f := (hinv.armedWithCurrent hphase).symm.trans hpending
  have hframe : isFrame f = true := hinv.currentIsFrame f hcur
  have htimeout (l : List Input) :
      step (s.withInputs (plainEvent 4 0 :: l)) = .next ((s.backingOff .timeout).withInputs l) :=
    (step_echoTimeout_of_waiting hopen l hphase).trans (failAttempt_eq_backingOff .timeout hcfg hleft)
  constructor
  · have hout := steps_frame_forward (s := s.backingOff .timeout) hopen hbuf hframe (by simp [State.backingOff]) tail
    exact (steps_of_step (htimeout _) _).trans hout
  · have hretry := step_backoffDone_of_current (s := s.backingOff .timeout) hopen (rxWords f ++ tail) rfl hcur
    have hecho := steps_frame_echo (s := (s.backingOff .timeout).issued f) hopen hbuf hframe rfl rfl tail
    have hsteps : 2 + f.length = 1 + (1 + f.length) := by omega
    rw [hsteps]
    refine (steps_of_step (htimeout _) _).trans ((steps_of_step hretry _).trans (hecho.trans ?_))
    simp [State.report, State.emit, State.endSend, State.withInputs, State.issued, State.backingOff]

/-- Settles O39: the request arms the comparator with the frame, whose echo ends the send. -/
theorem echoIsSuppressed : Obligations.EchoIsSuppressed := by
  intro m s tail hinv hopen hidle hbuf hvalid
  have hsend := step_txReq_of_valid hopen (rxWords (frameOfMessage m) ++ tail) hidle hvalid
  have hecho := steps_frame_echo (s := (s.requesting m).issued (frameOfMessage m)) hopen hbuf
    (isFrame_frameOfMessage hvalid) rfl rfl tail
  refine (steps_of_step hsend _).trans (hecho.trans ?_)
  rw [← hinv.endSend_of_idle hidle]
  simp [State.report, State.emit, State.endSend, State.withInputs, State.issued, State.requesting]

/-! ### A send whose attempts all fail (R99) -/

/-- Another device's frame is a collision (43_echo_collision.md R91). -/
def failedAttemptKind : FailedAttempt → FailKind
  | some _ => .collision
  | none => .timeout

theorem finalStatus_failedAttemptKind (a : FailedAttempt) :
    finalStatus (failedAttemptKind a) = failedAttemptStatus a := by
  cases a <;> rfl

/-- The state with these outputs put out. -/
def State.emitAll (s : State) (es : List Output) : State := { s with trace := s.trace ++ es }

/-- The frame is another device's: a valid one that is not the frame sent. -/
def FailedAttempt.Foreign (f : Frame) (a : FailedAttempt) : Prop := ∀ g, a = some g → isFrame g = true ∧ g ≠ f

/-- The events of a failed attempt are its outputs and FAIL_ATTEMPT of its kind. -/
theorem steps_failedAttempt {s : State} {f : Frame} {a : FailedAttempt} (hopen : s.ctrl = .opened) (hbuf : s.rxBuf = [])
    (hphase : s.txPhase = .waitEcho) (hpending : s.pending = some f) (ha : FailedAttempt.Foreign f a) (l : List Input) :
    steps (failedAttemptInputs a).length (s.withInputs (failedAttemptInputs a ++ l)) =
      failAttempt (failedAttemptKind a) ((s.emitAll (failedAttemptOutputs a)).withInputs l) := by
  cases a with
  | none =>
    have hquiet : s.emitAll (failedAttemptOutputs none) = s := by simp [State.emitAll, failedAttemptOutputs]
    rw [hquiet]
    exact (andThen_next_self _).trans (step_echoTimeout_of_waiting hopen l hphase)
  | some g =>
    obtain ⟨hframe, hne⟩ := ha g rfl
    have hforeign : (s.withInputs l).pending ≠ some g := by simpa [hpending] using Ne.symm hne
    have hcollision := dispatchFrame_of_foreign (s := s.withInputs l) hphase hforeign
    have hlen : (failedAttemptInputs (some g)).length = g.length := rxWords_length g
    rw [hlen]
    exact (steps_frame hopen hbuf hframe l).trans hcollision

/-- The state in BACKOFF after an attempt with `f` that failed as `a` says. -/
def State.afterFailure (s : State) (f : Frame) (a : FailedAttempt) : State :=
  ((s.issued f).emitAll (failedAttemptOutputs a)).backingOff (failedAttemptKind a)

section
variable {s : State} {c : Config} {f : Frame} {a : FailedAttempt} (hopen : s.ctrl = .opened) (hbuf : s.rxBuf = [])
  (hcfg : s.cfg = some c) (ha : FailedAttempt.Foreign f a)
include hopen hbuf hcfg ha

/-- From the write of an attempt that is not the last to the write of the next one. -/
theorem steps_retriedAttempt (hcur : s.curFrame = some f) (hleft : (s.attempt + 1).toNat < c.maxAttempts.toNat)
    (l : List Input) :
    steps ((failedAttemptInputs a).length + 1)
        ((s.issued f).withInputs (failedAttemptInputs a ++ plainEvent 5 0 :: l)) =
      .next (((s.afterFailure f a).issued f).withInputs l) := by
  have hfail := (steps_failedAttempt (s := s.issued f) hopen hbuf rfl rfl ha (plainEvent 5 0 :: l)).trans
    (failAttempt_eq_backingOff _ hcfg hleft)
  have hretry := step_backoffDone_of_current (s := s.afterFailure f a) hopen l rfl hcur
  rw [steps_add, hfail]
  exact (andThen_next_self _).trans hretry

/-- From the write of the last attempt to the report. -/
theorem steps_lastAttempt (hlast : ¬ (s.attempt + 1).toNat < c.maxAttempts.toNat) (l : List Input) :
    steps (failedAttemptInputs a).length ((s.issued f).withInputs (failedAttemptInputs a ++ l)) =
      .next ((s.endSend.emitAll (failedSendOutputs f [a])).withInputs l) := by
  have hfail := steps_failedAttempt (s := s.issued f) hopen hbuf rfl rfl ha l
  rw [hfail, failAttempt_of_last_attempt (s := ((s.issued f).emitAll _).withInputs l) _ hcfg hlast,
    finalStatus_failedAttemptKind]
  simp [State.report, State.emit, State.endSend, State.withInputs, State.issued, State.emitAll, failedSendOutputs]

end

theorem emitAll_endSend_afterFailure (s : State) (f : Frame) (a b : FailedAttempt) (rest : List FailedAttempt) :
    (s.afterFailure f a).endSend.emitAll (failedSendOutputs f (b :: rest)) =
      s.endSend.emitAll (failedSendOutputs f (a :: b :: rest)) := by
  simp [State.afterFailure, State.endSend, State.issued, State.emitAll, State.backingOff, failedSendOutputs]

theorem failedSendInputs_cons_cons (a b : FailedAttempt) (rest : List FailedAttempt) :
    failedSendInputs (a :: b :: rest) = failedAttemptInputs a ++ plainEvent 5 0 :: failedSendInputs (b :: rest) := rfl

/-- From the write of an attempt on, with as many failures to come as attempts are left: the send ends, with the outputs
of them all. -/
theorem steps_failedSend {c : Config} {f : Frame} {fails : List FailedAttempt} (hne : fails ≠ []) {s : State}
    (hopen : s.ctrl = .opened) (hbuf : s.rxBuf = []) (hcfg : s.cfg = some c) (hcur : s.curFrame = some f)
    (hcount : s.attempt.toNat + fails.length = c.maxAttempts.toNat) (hforeign : ∀ a ∈ fails, FailedAttempt.Foreign f a)
    (tail : List Input) :
    steps (failedSendInputs fails).length ((s.issued f).withInputs (failedSendInputs fails ++ tail)) =
      .next ((s.endSend.emitAll (failedSendOutputs f fails)).withInputs tail) := by
  induction fails generalizing s with
  | nil => exact absurd rfl hne
  | cons a rest ih =>
    obtain ⟨ha, hrest⟩ := List.forall_mem_cons.1 hforeign
    have hattempt : (s.attempt + 1).toNat + rest.length = c.maxAttempts.toNat := by
      have hmax := c.maxAttempts.isLt
      rw [List.length_cons] at hcount
      bv_omega
    cases rest with
    | nil =>
      have hlast : ¬ (s.attempt + 1).toNat < c.maxAttempts.toNat := by simp [← hattempt]
      exact steps_lastAttempt hopen hbuf hcfg ha hlast tail
    | cons b rest =>
      have hleft : (s.attempt + 1).toNat < c.maxAttempts.toNat := by simp [← hattempt]
      have hretried := steps_retriedAttempt hopen hbuf hcfg ha hcur hleft (failedSendInputs (b :: rest) ++ tail)
      have hsend := ih (by simp) (s := s.afterFailure f a) hopen hbuf hcfg hcur hattempt hrest
      have hlen : (failedSendInputs (a :: b :: rest)).length =
          (failedAttemptInputs a).length + 1 + (failedSendInputs (b :: rest)).length := by
        rw [failedSendInputs_cons_cons, List.length_append, List.length_cons]
        omega
      rw [hlen, failedSendInputs_cons_cons, List.append_assoc, List.cons_append, steps_add, hretried, andThen_next,
        hsend, emitAll_endSend_afterFailure]

theorem countP_isWireTx_failedAttemptOutputs (a : FailedAttempt) :
    (failedAttemptOutputs a).countP Output.isWireTx = 0 := by
  cases a <;> rfl

theorem countP_isTxDone_failedAttemptOutputs (a : FailedAttempt) :
    (failedAttemptOutputs a).countP Output.isTxDone = 0 := by
  cases a <;> rfl

/-- One write for each attempt. -/
theorem countP_isWireTx_failedSendOutputs (f : Frame) (fails : List FailedAttempt) :
    (failedSendOutputs f fails).countP Output.isWireTx = fails.length := by
  have hwrite : Output.isWireTx (.wireTx f) = true := rfl
  have hreport (st : Status) : Output.isWireTx (.txDone st) = false := rfl
  fun_induction failedSendOutputs f fails with
  | case1 => rfl
  | case2 a => simp [countP_isWireTx_failedAttemptOutputs, hwrite, hreport]
  | case3 a rest _ ih => simp [countP_isWireTx_failedAttemptOutputs, hwrite, ih]

/-- One report for the send. -/
theorem countP_isTxDone_failedSendOutputs (f : Frame) {fails : List FailedAttempt} (hne : fails ≠ []) :
    (failedSendOutputs f fails).countP Output.isTxDone = 1 := by
  have hwrite : Output.isTxDone (.wireTx f) = false := rfl
  have hreport (st : Status) : Output.isTxDone (.txDone st) = true := rfl
  fun_induction failedSendOutputs f fails with
  | case1 => exact absurd rfl hne
  | case2 a => simp [countP_isTxDone_failedAttemptOutputs, hwrite, hreport]
  | case3 a rest hrest ih =>
    simp [countP_isTxDone_failedAttemptOutputs, hwrite, ih (by simpa using hrest)]

/-- Settles O40: the request writes the first attempt, and a configuration allows at least one. -/
theorem sendFailsAfterMaxAttempts : Obligations.SendFailsAfterMaxAttempts := by
  intro m s c fails tail hinv hopen hidle hbuf hcfg hvalid hlen hforeign
  have hne : fails ≠ [] := by
    obtain ⟨c', hcfg', hreq⟩ := hinv.openConfigured hopen
    obtain rfl : c' = c := Option.some.inj (hcfg'.symm.trans hcfg)
    have := ((configRequired_iff c').1 hreq).1
    exact List.ne_nil_of_length_pos (by omega)
  have hsend := step_txReq_of_valid hopen (failedSendInputs fails ++ tail) hidle hvalid
  have hfails := steps_failedSend hne (s := s.requesting m) hopen hbuf hcfg rfl (by simpa [State.requesting] using hlen)
    (fun a ha g hg => hforeign g (hg ▸ ha)) tail
  have hidleAgain : (s.requesting m).endSend = s := hinv.endSend_of_idle hidle
  refine ⟨(steps_of_step hsend _).trans (hfails.trans ?_), ?_, countP_isTxDone_failedSendOutputs _ hne⟩
  · rw [hidleAgain]
    rfl
  · rw [countP_isWireTx_failedSendOutputs, hlen]

end Sys2Proof.Machine
end

section
/-! The obligation of 43_echo_collision.md R90 and 70_reset_and_hazards.md R125: which events write the wire. -/

namespace Sys2Proof.Machine

/-- The trace only grew, and not by a write to the wire. -/
def WritesNothing (s t : State) : Prop :=
  ∃ seg, t.trace = s.trace ++ seg ∧ ∀ f, .wireTx f ∉ seg

/-- `f` is the one output, and the comparator is armed with it as the current frame (43_echo_collision.md R90). -/
structure WritesAndArms (s t : State) (f : Frame) : Prop where
  trace : t.trace = s.trace ++ [.wireTx f]
  pending : t.pending = some f
  curFrame : t.curFrame = some f
  txPhase : t.txPhase = .waitEcho

theorem WritesNothing.of_eq {s t : State} (h : t.trace = s.trace) : WritesNothing s t := ⟨[], by simp [h], by simp⟩

theorem KeepsWire.writesNothing {s t : State} (h : KeepsWire s t) : WritesNothing s t := h.2.2

theorem writesNothing_report (s : State) (st : Status) : WritesNothing s (s.report st) :=
  ⟨[.txDone st], rfl, by simp⟩

theorem writesNothing_shutdown (s : State) (st : Status) : WritesNothing s (s.shutdown st) := by
  refine ⟨_, State.shutdown_trace s st, fun f => ?_⟩
  split <;> simp

theorem receiveRow_writesNothing {b : Byte} {rest : List Byte} {s t : State} (h : receiveRow b rest s = .next t) :
    WritesNothing s t :=
  (receiveRow_keepsWire h).writesNothing

theorem txIssue_writesAndArms {s t : State} (h : txIssue s = .next t) :
    ∃ f, s.curFrame = some f ∧ WritesAndArms s t f := by
  obtain ⟨f, hcur, rfl⟩ := txIssue_next h
  exact ⟨f, hcur, rfl, rfl, hcur, rfl⟩

/-- An event writes nothing, or it is a request or the end of a backoff that writes its frame and arms the comparator
with it. -/
theorem exec_writesNothing_or {i : Instr} {s t : State} (hi : i.isInternal = false) (h : exec i s = .next t) :
    WritesNothing s t ∨ ∃ f, WritesAndArms s t f ∧
      ((∃ m, i = .txReq m ∧ f = frameOfMessage m) ∨ (i = .backoffDone ∧ s.curFrame = some f)) := by
  cases i with
  | frameC2 | frameC4 | frameC6 | frameVar => exact .inl (receiveRow_writesNothing h)
  | dataByte | rxByte => exact .inl (receiveRow_writesNothing (rest := []) h)
  | txReq m =>
    obtain ⟨-, rfl⟩ | ⟨-, rfl | ⟨e, rfl⟩ | ⟨-, hissue⟩⟩ := exec_txReq_next h
    · exact .inl (writesNothing_report s _)
    · exact .inl (.of_eq rfl)
    · exact .inl (writesNothing_report s _)
    · obtain ⟨f, hcur, htrace, hpending, hcur', hphase⟩ := txIssue_writesAndArms hissue
      exact .inr ⟨f, ⟨htrace, hpending, hcur', hphase⟩, .inl ⟨m, rfl, (Option.some.inj hcur).symm⟩⟩
  | txCancel =>
    obtain rfl | ⟨-, rfl⟩ := exec_txCancel_next h
    · exact .inl (.of_eq rfl)
    · exact .inl (keepsWire_endSend_report s _).writesNothing
  | echoTimeout =>
    obtain rfl | ⟨-, -, hfail⟩ := exec_echoTimeout_next h
    · exact .inl (.of_eq rfl)
    · exact .inl (failAttempt_keepsWire hfail).writesNothing
  | backoffDone =>
    obtain rfl | ⟨-, -, hissue⟩ := exec_backoffDone_next h
    · exact .inl (.of_eq rfl)
    · obtain ⟨f, hcur, harms⟩ := txIssue_writesAndArms hissue
      exact .inr ⟨f, harms, .inr ⟨rfl, hcur⟩⟩
  | openBlock c =>
    obtain ⟨-, ⟨-, rfl⟩ | rfl⟩ := exec_openBlock_next h
    · exact .inl ⟨[.openDone .ok], rfl, by simp⟩
    · exact .inl ⟨[.openDone .configError], rfl, by simp⟩
  | closeBlock =>
    obtain rfl | rfl := exec_closeBlock_next h
    · exact .inl (.of_eq rfl)
    · exact .inl (writesNothing_shutdown s _)
  | transportErr =>
    obtain rfl | rfl := exec_transportErr_next h
    · exact .inl (.of_eq rfl)
    · exact .inl (writesNothing_shutdown s _)
  | reservedEvent => cases h
  | cksGen | cksChk | msgBuild | encodeMsg | frameMsg | decodeLoop | dNoise | dWait | dAccept | dResync | dBadLen
  | txIssue | dispatch | failAttempt => cases hi

/-- Settles O57: TX_ISSUE is the one write, and only those two events run it. -/
theorem onlyIssueWritesTheWire : Obligations.OnlyIssueWritesTheWire := by
  intro i s t f hi h
  obtain ⟨seg, htrace, hnone⟩ | ⟨f', ⟨htrace, hpending, hcur, hphase⟩, hevent⟩ := exec_writesNothing_or hi h
  · exact ⟨seg, htrace, fun hmem => absurd hmem (hnone f)⟩
  · refine ⟨_, htrace, fun hmem => ?_⟩
    obtain rfl : f = f' := by simpa using hmem
    exact ⟨hevent, rfl, hpending, hcur, hphase⟩

end Sys2Proof.Machine
end

section
/-! The obligation of 43_echo_collision.md R95: under timer fairness every send ends. -/

namespace Sys2Proof.Machine

/-! ### What a step does to a send in progress -/

/-- How far a send has come: it grows with each write and with each failed attempt. -/
def State.sendRank (s : State) : Nat := 2 * s.attempt.toNat + if s.txPhase = .backoff then 1 else 0

/-- The send goes on from `s` to `t`: no report, each write counted as an attempt, and no phase is left without a gain
in rank. -/
structure SendRuns (s t : State) : Prop where
  busy : t.txPhase ≠ .idle
  cfg : t.cfg = s.cfg
  outputs : ∃ seg, t.trace = s.trace ++ seg ∧ seg.countP Output.isTxDone = 0 ∧
    t.attempt.toNat = s.attempt.toNat + seg.countP Output.isWireTx
  rank : s.sendRank ≤ t.sendRank ∧ (t.txPhase ≠ s.txPhase → s.sendRank < t.sendRank)

/-- The send in progress in `s` has ended in `t`: one report, and no more writes than the attempts left. -/
structure SendEnds (s t : State) : Prop where
  idle : t.txPhase = .idle
  outputs : ∃ seg, t.trace = s.trace ++ seg ∧ seg.countP Output.isTxDone = 1 ∧
    ∀ c, s.cfg = some c → s.attempt.toNat + seg.countP Output.isWireTx ≤ c.maxAttempts.toNat

/-- The send goes on or has ended. -/
def SendStep (s t : State) : Prop := SendRuns s t ∨ SendEnds s t

/-- Outputs that are neither reports nor writes leave the send as it is. -/
theorem SendRuns.of_same_send {s t : State} (hbusy : s.txPhase ≠ .idle) (hcfg : t.cfg = s.cfg)
    (hphase : t.txPhase = s.txPhase) (hattempt : t.attempt = s.attempt)
    (htrace : ∃ seg, t.trace = s.trace ++ seg ∧ seg.countP Output.isTxDone = 0 ∧ seg.countP Output.isWireTx = 0) :
    SendRuns s t := by
  obtain ⟨seg, htrace, hdone, hwrite⟩ := htrace
  have hrank : t.sendRank = s.sendRank := by simp [State.sendRank, hphase, hattempt]
  exact ⟨hphase ▸ hbusy, hcfg, ⟨seg, htrace, hdone, by simp [hattempt, hwrite]⟩, hrank.ge, fun hne => absurd hphase hne⟩

theorem SendRuns.of_same_trace {s t : State} (hbusy : s.txPhase ≠ .idle) (hcfg : t.cfg = s.cfg)
    (hphase : t.txPhase = s.txPhase) (hattempt : t.attempt = s.attempt) (htrace : t.trace = s.trace) : SendRuns s t :=
  .of_same_send hbusy hcfg hphase hattempt ⟨[], by simp [htrace], rfl, rfl⟩

theorem SendRuns.refl {s : State} (hbusy : s.txPhase ≠ .idle) : SendRuns s s := .of_same_trace hbusy rfl rfl rfl rfl

theorem SendRuns.trans {s t u : State} (h : SendRuns s t) (h' : SendRuns t u) : SendRuns s u := by
  obtain ⟨-, hcfg, ⟨seg, ht, hdone, hattempt⟩, hrank, hgain⟩ := h
  obtain ⟨hbusy, hcfg', ⟨seg', hu, hdone', hattempt'⟩, hrank', hgain'⟩ := h'
  refine ⟨hbusy, hcfg'.trans hcfg, ⟨seg ++ seg', ?_, ?_, ?_⟩, hrank.trans hrank', fun hne => ?_⟩
  · rw [hu, ht, List.append_assoc]
  · rw [List.countP_append, hdone, hdone']
  · rw [List.countP_append, hattempt', hattempt, Nat.add_assoc]
  · by_cases hfirst : t.txPhase = s.txPhase
    · exact hrank.trans_lt (hgain' (hfirst ▸ hne))
    · exact (hgain hfirst).trans_le hrank'

theorem SendRuns.trans_ends {s t u : State} (h : SendRuns s t) (h' : SendEnds t u) : SendEnds s u := by
  obtain ⟨-, hcfg, ⟨seg, ht, hdone, hattempt⟩, -⟩ := h
  obtain ⟨hidle, seg', hu, hdone', hbound⟩ := h'
  refine ⟨hidle, seg ++ seg', ?_, ?_, fun c hc => ?_⟩
  · rw [hu, ht, List.append_assoc]
  · rw [List.countP_append, hdone, hdone']
  · have hmax := hbound c (hcfg.trans hc)
    rw [List.countP_append]
    omega

theorem SendRuns.trans_step {s t u : State} (h : SendRuns s t) (h' : SendStep t u) : SendStep s u :=
  h'.imp h.trans h.trans_ends

theorem sendRuns_emit_frameOut {s : State} (hbusy : s.txPhase ≠ .idle) (f : Frame) :
    SendRuns s (s.emit (.frameOut f)) :=
  .of_same_send hbusy rfl rfl rfl ⟨[.frameOut f], rfl, rfl, rfl⟩

/-- Frames that are put out afterwards belong neither to the send nor to its report. -/
theorem SendStep.forward {s t : State} (h : SendStep s t) (fs : List Frame) :
    SendStep s { t with trace := t.trace ++ fs.map .frameOut } := by
  have hdone : (fs.map Output.frameOut).countP Output.isTxDone = 0 := by simp [Output.isTxDone]
  have hwrite : (fs.map Output.frameOut).countP Output.isWireTx = 0 := by simp [Output.isWireTx]
  obtain hruns | ⟨hidle, seg, htrace, hone, hbound⟩ := h
  · exact .inl (hruns.trans (.of_same_send hruns.busy rfl rfl rfl ⟨_, rfl, hdone, hwrite⟩))
  · refine .inr ⟨hidle, seg ++ fs.map .frameOut, by simp [htrace], ?_, fun c hc => ?_⟩
    · rw [List.countP_append, hone, hdone]
    · rw [List.countP_append, hwrite]
      exact hbound c hc

section
variable {s t : State} (hs : s.SendOk)
include hs

theorem State.SendOk.attempt_le (hbusy : s.txPhase ≠ .idle) {c : Config} (hcfg : s.cfg = some c) :
    s.attempt.toNat ≤ c.maxAttempts.toNat := by
  cases hphase : s.txPhase with
  | idle => exact absurd hphase hbusy
  | waitEcho =>
    obtain ⟨c', -, hcfg', -, -, -, -, hle, -⟩ := (State.sendOk_waitEcho hphase).1 hs
    exact Option.some.inj (hcfg'.symm.trans hcfg) ▸ hle
  | backoff =>
    obtain ⟨c', -, hcfg', -, -, -, -, hlt, -⟩ := (State.sendOk_backoff hphase).1 hs
    exact Option.some.inj (hcfg'.symm.trans hcfg) ▸ hlt.le

/-- A send that ends with one report and without a write. -/
theorem SendEnds.of_report (hbusy : s.txPhase ≠ .idle) (hidle : t.txPhase = .idle)
    (htrace : ∃ seg, t.trace = s.trace ++ seg ∧ seg.countP Output.isTxDone = 1 ∧ seg.countP Output.isWireTx = 0) :
    SendEnds s t := by
  obtain ⟨seg, htrace, hdone, hwrite⟩ := htrace
  exact ⟨hidle, seg, htrace, hdone, fun c hcfg => by simpa [hwrite] using hs.attempt_le hbusy hcfg⟩

theorem sendEnds_endSend_report (hbusy : s.txPhase ≠ .idle) (st : Status) : SendEnds s (s.endSend.report st) :=
  .of_report hs hbusy rfl ⟨[.txDone st], rfl, rfl, rfl⟩

theorem sendEnds_shutdown (hbusy : s.txPhase ≠ .idle) (st : Status) : SendEnds s (s.shutdown st) := by
  have htrace : (s.shutdown st).trace = s.trace ++ [.txDone st, .streamEnd] := by simp [hbusy]
  exact .of_report hs hbusy rfl ⟨_, htrace, rfl, rfl⟩

/-- A failed attempt goes to BACKOFF or ends the send. -/
theorem failAttempt_sendStep {kind : FailKind} (hphase : s.txPhase = .waitEcho) (h : failAttempt kind s = .next t) :
    SendStep s t ∧ t.txPhase ≠ .waitEcho := by
  obtain ⟨c, -, ⟨-, rfl⟩ | ⟨-, rfl⟩⟩ := failAttempt_next h
  · have hgain : s.sendRank < (s.backingOff kind).sendRank := by simp [State.sendRank, State.backingOff, hphase]
    have hruns : SendRuns s (s.backingOff kind) :=
      ⟨by simp [State.backingOff], rfl, ⟨[], by simp [State.backingOff], rfl, rfl⟩, hgain.le, fun _ => hgain⟩
    exact ⟨.inl hruns, by simp⟩
  · exact ⟨.inr (sendEnds_endSend_report hs (by simp [hphase]) _), by simp⟩

/-- The frame that meets an armed comparator ends the wait for the echo either way (43_echo_collision.md R91). -/
theorem dispatchFrame_sendStep {f : Frame} (hphase : s.txPhase = .waitEcho) (h : dispatchFrame f s = .next t) :
    SendStep s t ∧ t.txPhase ≠ .waitEcho := by
  have hbusy : s.txPhase ≠ .idle := by simp [hphase]
  obtain ⟨hnot, -⟩ | ⟨-, -, rfl⟩ | ⟨-, -, hfail⟩ := dispatchFrame_next h
  · exact absurd hphase hnot
  · exact ⟨.inr (sendEnds_endSend_report hs hbusy _), by simp⟩
  · obtain ⟨hstep, hleft⟩ := failAttempt_sendStep (hs.emit (.frameOut f)) hphase hfail
    exact ⟨(sendRuns_emit_frameOut hbusy f).trans_step hstep, hleft⟩

theorem dispatchAll_sendStep {fs : List Frame} (hbusy : s.txPhase ≠ .idle) (h : dispatchAll fs s = .next t) :
    SendStep s t := by
  have hsame : SendStep s s := .inl (.refl hbusy)
  by_cases hphase : s.txPhase = .waitEcho
  · cases fs with
    | nil => cases h; exact hsame
    | cons f rest =>
      obtain ⟨u, hu, hrest⟩ := andThen_eq_next h
      obtain ⟨hstep, hleft⟩ := dispatchFrame_sendStep hs hphase hu
      rw [dispatchAll_forward rest u hleft] at hrest
      cases hrest
      exact hstep.forward rest
  · rw [dispatchAll_forward fs s hphase] at h
    cases h
    exact hsame.forward fs

theorem receiveRow_sendStep {b : Byte} {rest : List Byte} (hbusy : s.txPhase ≠ .idle)
    (h : receiveRow b rest s = .next t) : SendStep s t := by
  obtain ⟨-, rfl⟩ | ⟨-, hall⟩ := receiveRow_next h
  · exact .inl (.of_same_trace hbusy rfl rfl rfl rfl)
  · have hruns : SendRuns s ((s.withBytes rest).withDecoder (decodeAll (s.decoderWith b))) :=
      .of_same_trace hbusy rfl rfl rfl rfl
    exact hruns.trans_step (dispatchAll_sendStep (s := (s.withBytes rest).withDecoder _) hs hbusy hall)

/-- The next attempt is one write, counted within the attempts left. -/
theorem txIssue_sendRuns (hphase : s.txPhase = .backoff) (h : txIssue s = .next t) : SendRuns s t := by
  obtain ⟨c, f, -, hcur, -, -, -, hlt, -⟩ := (State.sendOk_backoff hphase).1 hs
  rw [txIssue_of_current hcur] at h
  cases h
  have hattempt : (s.issued f).attempt.toNat = s.attempt.toNat + 1 := by
    simp only [State.issued]
    bv_omega
  have hgain : s.sendRank < (s.issued f).sendRank := by
    simp [State.sendRank, hattempt, hphase]
    omega
  exact ⟨by simp [State.issued], rfl, ⟨[.wireTx f], rfl, rfl, hattempt⟩, hgain.le, fun _ => hgain⟩

/-- Every event lets the send in progress go on or ends it. -/
theorem exec_sendStep {i : Instr} (hi : i.isInternal = false) (hopen : s.ctrl = .opened) (hbusy : s.txPhase ≠ .idle)
    (h : exec i s = .next t) : SendStep s t := by
  have hsame : SendStep s s := .inl (.refl hbusy)
  cases i with
  | frameC2 | frameC4 | frameC6 | frameVar => exact receiveRow_sendStep hs hbusy h
  | dataByte | rxByte => exact receiveRow_sendStep (rest := []) hs hbusy h
  | txReq m =>
    rw [exec_txReq_of_busy m hopen hbusy] at h
    cases h
    exact .inl (.of_same_trace hbusy rfl rfl rfl rfl)
  | txCancel =>
    obtain rfl | ⟨-, rfl⟩ := exec_txCancel_next h
    · exact hsame
    · exact .inr (sendEnds_endSend_report hs hbusy _)
  | echoTimeout =>
    obtain rfl | ⟨-, hphase, hfail⟩ := exec_echoTimeout_next h
    · exact hsame
    · exact (failAttempt_sendStep hs hphase hfail).1
  | backoffDone =>
    obtain rfl | ⟨-, hphase, hissue⟩ := exec_backoffDone_next h
    · exact hsame
    · exact .inl (txIssue_sendRuns hs hphase hissue)
  | openBlock =>
    obtain ⟨hclosed, -⟩ := exec_openBlock_next h
    simp [hopen] at hclosed
  | closeBlock =>
    obtain rfl | rfl := exec_closeBlock_next h
    · exact hsame
    · exact .inr (sendEnds_shutdown hs hbusy _)
  | transportErr =>
    obtain rfl | rfl := exec_transportErr_next h
    · exact hsame
    · exact .inr (sendEnds_shutdown hs hbusy _)
  | reservedEvent => cases h
  | cksGen | cksChk | msgBuild | encodeMsg | frameMsg | decodeLoop | dNoise | dWait | dAccept | dResync | dBadLen
  | txIssue | dispatch | failAttempt => cases hi

end

theorem step_sendStep {s t : State} (hinv : Inv s) (hbusy : s.txPhase ≠ .idle) (h : step s = .next t) :
    SendStep s t := by
  obtain ⟨-, hidle⟩ | ⟨before, inp, after, -, -, hstep⟩ := step_cases s
  · cases hidle.symm.trans h
    exact .inl (.refl hbusy)
  · have hruns : SendRuns s (s.withInputs (before ++ (decodeInput inp).2 ++ after)) :=
      .of_same_trace hbusy rfl rfl rfl rfl
    obtain ⟨hopen, -⟩ := hinv.opened_of_busy hbusy
    exact hruns.trans_step
      (exec_sendStep (hinv.withInputs _).sendOk (decodeInput_not_internal inp) hopen hbusy (hstep.symm.trans h))

/-! ### Fair runs -/

theorem State.sendRank_lt (s : State) : s.sendRank < 512 := by
  have hattempt := s.attempt.isLt
  unfold State.sendRank
  split <;> omega

/-- The send in progress at `k` ends, at the first idle state after `k`. -/
def SendEndsAfter (r : Nat → State) (k : Nat) : Prop :=
  ∃ j, k < j ∧ (∀ i, k ≤ i → i < j → (r i).txPhase ≠ .idle) ∧ SendEnds (r k) (r j)

theorem SendEndsAfter.of_succ {r : Nat → State} {k : Nat} (hbusy : (r k).txPhase ≠ .idle)
    (hruns : SendRuns (r k) (r (k + 1))) (h : SendEndsAfter r (k + 1)) : SendEndsAfter r k := by
  obtain ⟨j, hj, hbetween, hends⟩ := h
  refine ⟨j, by omega, fun i hki hij => ?_, hruns.trans_ends hends⟩
  obtain rfl | hlater := Nat.eq_or_lt_of_le hki
  · exact hbusy
  · exact hbetween i hlater hij

section
variable {r : Nat → State} (hrun : IsRun r) (hinv : Inv (r 0))
include hrun hinv

theorem IsRun.inv (k : Nat) : Inv (r k) := by
  induction k with
  | zero => exact hinv
  | succ k ih => exact stepKeepsInvariant _ _ ih (hrun k)

/-- Within any number of steps the send has ended, or it still goes on and ends when it ends from there. -/
theorem IsRun.sendEndsAfter_or_runs (n k : Nat) (hbusy : (r k).txPhase ≠ .idle) :
    SendEndsAfter r k ∨ (SendRuns (r k) (r (k + n)) ∧ (SendEndsAfter r (k + n) → SendEndsAfter r k)) := by
  induction n generalizing k with
  | zero => exact .inr ⟨.refl hbusy, id⟩
  | succ n ih =>
    obtain hruns | hends := step_sendStep (IsRun.inv hrun hinv k) hbusy (hrun k)
    · have hsum : k + (n + 1) = k + 1 + n := by omega
      rw [hsum]
      exact (ih (k + 1) hruns.busy).imp (.of_succ hbusy hruns)
        fun ⟨hruns', hlater⟩ => ⟨hruns.trans hruns', fun h => .of_succ hbusy hruns (hlater h)⟩
    · refine .inl ⟨k + 1, by omega, fun i hki hik => ?_, hends⟩
      obtain rfl : i = k := by omega
      exact hbusy

/-- Fairness leaves every phase of a send, each time with a gain in rank, and the rank is bounded. -/
theorem IsRun.sendEndsAfter (hfair : FairRun r) (k : Nat) (hbusy : (r k).txPhase ≠ .idle) : SendEndsAfter r k := by
  obtain ⟨j, hj, hleft⟩ : ∃ j, k < j ∧ (r j).txPhase ≠ (r k).txPhase := by
    cases hphase : (r k).txPhase with
    | idle => exact absurd hphase hbusy
    | waitEcho => exact hfair.1 k hphase
    | backoff => exact hfair.2 k hphase
  obtain ⟨n, rfl⟩ := Nat.exists_eq_add_of_lt hj
  obtain hends | ⟨hruns, hlater⟩ := IsRun.sendEndsAfter_or_runs hrun hinv (n + 1) k hbusy
  · exact hends
  · have hgain : (r k).sendRank < (r (k + n + 1)).sendRank := hruns.rank.2 hleft
    have hbound := (r (k + n + 1)).sendRank_lt
    exact hlater (IsRun.sendEndsAfter hfair (k + n + 1) hruns.busy)
termination_by 512 - (r k).sendRank

end

/-- Settles O41: every send ends under fairness, and what it puts out until then is counted step by step. -/
theorem fairSendsEnd : Obligations.FairSendsEnd := by
  intro r hrun hfair hinv k c hbusy hcfg
  obtain ⟨j, hj, hbetween, hidle, seg, htrace, hdone, hbound⟩ := IsRun.sendEndsAfter hrun hinv hfair k hbusy
  exact ⟨j, seg, hj, hbetween, hidle, htrace, hdone, hbound c hcfg⟩

end Sys2Proof.Machine
end

section
/-! The obligations of 44_control.md: OPEN (R101, R104), the ends of a session (R102, R103) and what each event does
while the block is closed (R105). -/

namespace Sys2Proof.Machine

/-! ### OPEN -/

/-- Settles O42: the open parameter decides between the two answers of a closed block. -/
theorem openResetsOrRejects : Obligations.OpenResetsOrRejects := by
  refine ⟨fun _ _ => rfl, fun c s hclosed => ?_⟩
  rw [exec_openBlock_of_closed c hclosed]
  by_cases hvalid : configValid c = true
  · rw [if_pos hvalid, if_pos hvalid]; rfl
  · rw [if_neg hvalid, if_neg hvalid]; rfl

theorem exec_openBlock_of_opened (c : Config) {s : State} (hopen : s.ctrl = .opened) :
    exec (.openBlock c) s = .refused .openWhileOpen := by
  simp [exec, execOpen, hopen]

/-- Settles O44: an open block answers OPEN with the refusal alone. -/
theorem openWhileOpenIsRefused : Obligations.OpenWhileOpenIsRefused := fun c _ => exec_openBlock_of_opened c

/-! ### The end of a session -/

/-- What a session's end puts out, by the phase it ends in (44_control.md R102, R103). -/
theorem State.shutdown_eq_of_phase (s : State) (st : Status) :
    s.shutdown st = { s.endSend with
      rxBuf := [], cfg := none, ctrl := .closed
      trace := s.trace ++ if s.txPhase = .idle then [.streamEnd] else [.txDone st, .streamEnd] } := by
  rw [State.shutdown_eq]
  by_cases hidle : s.txPhase = .idle
  · rw [if_pos hidle, if_neg (by simp [hidle])]
  · rw [if_neg hidle, if_pos (s.busy_eq_true.2 hidle)]

section
variable {s : State}

theorem exec_closeBlock_of_closed (hclosed : s.ctrl = .closed) : exec .closeBlock s = .next s := by
  simp [exec, execClose, hclosed]

theorem exec_closeBlock_of_opened (hopen : s.ctrl = .opened) : exec .closeBlock s = .next (s.shutdown .closed) := by
  simp [exec, execClose, hopen]

theorem exec_transportErr_of_closed (hclosed : s.ctrl = .closed) : exec .transportErr s = .next s := by
  simp [exec, execTransportErr, hclosed]

theorem exec_transportErr_of_opened (hopen : s.ctrl = .opened) :
    exec .transportErr s = .next (s.shutdown .transportError) := by
  simp [exec, execTransportErr, hopen]

end

/-- Settles O45: CLOSE is the end of a session with status `Closed`. -/
theorem closeEndsSession : Obligations.CloseEndsSession := by
  refine ⟨fun _ _ => rfl, fun s => ⟨exec_closeBlock_of_closed, fun hopen => ?_⟩⟩
  rw [exec_closeBlock_of_opened hopen, State.shutdown_eq_of_phase]
  rfl

/-- Settles O46: a transport failure is the end of a session with status `TransportError`. -/
theorem transportFailureEndsSession : Obligations.TransportFailureEndsSession := by
  refine ⟨fun _ _ => rfl, fun s => ⟨exec_transportErr_of_closed, fun hopen => ?_⟩⟩
  rw [exec_transportErr_of_opened hopen, State.shutdown_eq_of_phase]
  rfl

/-! ### Events while the block is closed -/

/-- OPEN of a closed block either opens it with the record given or reports `ConfigError` (44_control.md R101). -/
theorem exec_openBlock_opens_or_rejects (c : Config) {s : State} (hclosed : s.ctrl = .closed) :
    exec (.openBlock c) s = .next (s.openWith c) ∨
      exec (.openBlock c) s = .next (s.emit (.openDone .configError)) := by
  rw [exec_openBlock_of_closed c hclosed]
  by_cases hvalid : configValid c = true
  · exact .inl (congrArg _ (if_pos hvalid))
  · exact .inr (congrArg _ (if_neg hvalid))

/-- Settles O47: the table of R105, row by row. -/
theorem closedBlockEvents : Obligations.ClosedBlockEvents := by
  intro s hclosed
  have hopen (c : Config) : ∃ t, exec (.openBlock c) s = .next t ∧
      ((t.ctrl = .opened ∧ t.cfg = some c ∧ t.trace = s.trace ++ [.openDone .ok]) ∨
        t = { s with trace := s.trace ++ [.openDone .configError] }) := by
    obtain hopened | hrejected := exec_openBlock_opens_or_rejects c hclosed
    · exact ⟨_, hopened, .inl ⟨rfl, rfl, rfl⟩⟩
    · exact ⟨_, hrejected, .inr rfl⟩
  exact ⟨fun b => receiveByte_closed b s hclosed, fun m => exec_txReq_of_closed m hclosed,
    exec_txCancel_of_stale (.inl hclosed), exec_echoTimeout_of_stale (.inl hclosed),
    exec_backoffDone_of_stale (.inl hclosed), hopen, exec_closeBlock_of_closed hclosed,
    exec_transportErr_of_closed hclosed, fun _ => rfl⟩

end Sys2Proof.Machine
end

section
/-! The obligations of 60_exceptions.md: the status codes (R106), at most one report an event (R109) and the reasons a
step stops (R119). -/

namespace Sys2Proof.Machine

/-- Settles O54: the codes are the table's, name by name. -/
theorem statusCodesAsInTheTable : Obligations.StatusCodesAsInTheTable := rfl

/-! ### What an event reports (R109) -/

/-- The trace grew by at most one report, and a report made while open left the block idle. -/
def ReportsAtMostOnce (s t : State) : Prop :=
  ∃ seg, t.trace = s.trace ++ seg ∧ seg.countP Output.isTxDone ≤ 1 ∧
    (seg.countP Output.isTxDone = 1 → s.ctrl = .opened → t.txPhase = .idle)

section
variable {s t : State}

theorem ReportsAtMostOnce.of_no_report (seg : List Output) (htrace : t.trace = s.trace ++ seg)
    (hnone : seg.countP Output.isTxDone = 0) : ReportsAtMostOnce s t :=
  ⟨seg, htrace, by omega, fun hone => by omega⟩

theorem ReportsAtMostOnce.of_same_trace (htrace : t.trace = s.trace) : ReportsAtMostOnce s t :=
  .of_no_report [] (by simp [htrace]) rfl

theorem ReportsAtMostOnce.of_report {st : Status} (htrace : t.trace = s.trace ++ [.txDone st])
    (hidle : s.ctrl = .opened → t.txPhase = .idle) : ReportsAtMostOnce s t :=
  ⟨_, htrace, le_rfl, fun _ => hidle⟩

theorem ReportsAtMostOnce.after_frameOut {f : Frame} (h : ReportsAtMostOnce (s.emit (.frameOut f)) t) :
    ReportsAtMostOnce s t := by
  obtain ⟨seg, htrace, hcount, hidle⟩ := h
  exact ⟨.frameOut f :: seg, by simp [htrace], hcount, hidle⟩

/-- Frames that are put out afterwards are no reports. -/
theorem ReportsAtMostOnce.forward (h : ReportsAtMostOnce s t) (fs : List Frame) :
    ReportsAtMostOnce s { t with trace := t.trace ++ fs.map .frameOut } := by
  obtain ⟨seg, htrace, hcount, hidle⟩ := h
  have hsame : (seg ++ fs.map Output.frameOut).countP Output.isTxDone = seg.countP Output.isTxDone := by
    simp [List.countP_append, Output.isTxDone]
  exact ⟨seg ++ fs.map .frameOut, by simp [htrace], hsame ▸ hcount, hsame ▸ hidle⟩

theorem reportsAtMostOnce_shutdown (s : State) (st : Status) : ReportsAtMostOnce s (s.shutdown st) := by
  refine ⟨_, State.shutdown_trace s st, ?_, fun _ _ => rfl⟩
  split
  · exact le_rfl
  · exact Nat.zero_le 1

theorem txIssue_reportsAtMostOnce (h : txIssue s = .next t) : ReportsAtMostOnce s t := by
  obtain ⟨f, -, htrace, -⟩ := txIssue_writesAndArms h
  exact .of_no_report [.wireTx f] htrace rfl

theorem failAttempt_reportsAtMostOnce {kind : FailKind} (h : failAttempt kind s = .next t) :
    ReportsAtMostOnce s t := by
  obtain ⟨c, -, ⟨-, rfl⟩ | ⟨-, rfl⟩⟩ := failAttempt_next h
  · exact .of_same_trace rfl
  · exact .of_report rfl fun _ => rfl

theorem dispatchFrame_reportsAtMostOnce {f : Frame} (h : dispatchFrame f s = .next t) : ReportsAtMostOnce s t := by
  obtain ⟨-, rfl⟩ | ⟨-, -, rfl⟩ | ⟨-, -, hfail⟩ := dispatchFrame_next h
  · exact .of_no_report [.frameOut f] rfl rfl
  · exact .of_report rfl fun _ => rfl
  · exact .after_frameOut (failAttempt_reportsAtMostOnce hfail)

/-- No echo is awaited after a failed attempt (43_echo_collision.md R92). -/
theorem failAttempt_leaves_waitEcho {kind : FailKind} (h : failAttempt kind s = .next t) : t.txPhase ≠ .waitEcho := by
  obtain ⟨c, -, ⟨-, rfl⟩ | ⟨-, rfl⟩⟩ := failAttempt_next h <;> simp

/-- No echo is awaited after a frame is dispatched (43_echo_collision.md R91). -/
theorem dispatchFrame_leaves_waitEcho {f : Frame} (h : dispatchFrame f s = .next t) : t.txPhase ≠ .waitEcho := by
  obtain ⟨hphase, rfl⟩ | ⟨-, -, rfl⟩ | ⟨-, -, hfail⟩ := dispatchFrame_next h
  · exact hphase
  · simp
  · exact failAttempt_leaves_waitEcho hfail

/-- Only the first frame can end the send; the later ones are forwarded (60_exceptions.md R112). -/
theorem dispatchAll_reportsAtMostOnce {fs : List Frame} (h : dispatchAll fs s = .next t) : ReportsAtMostOnce s t := by
  cases fs with
  | nil => cases h; exact .of_same_trace rfl
  | cons f rest =>
    obtain ⟨u, hfirst, -⟩ := andThen_eq_next h
    rw [dispatchAll_cons_forward hfirst (dispatchFrame_leaves_waitEcho hfirst)] at h
    cases h
    exact (dispatchFrame_reportsAtMostOnce hfirst).forward rest

theorem receiveRow_reportsAtMostOnce {b : Byte} {rest : List Byte} (h : receiveRow b rest s = .next t) :
    ReportsAtMostOnce s t := by
  obtain ⟨-, rfl⟩ | ⟨-, hall⟩ := receiveRow_next h
  · exact .of_same_trace rfl
  · exact dispatchAll_reportsAtMostOnce (s := (s.withBytes rest).withDecoder _) hall

/-- A request to an open block is answered by report only where no send is in progress (43_echo_collision.md R88). -/
theorem exec_txReq_reportsAtMostOnce {m : Message} (h : exec (.txReq m) s = .next t) : ReportsAtMostOnce s t := by
  obtain ⟨hclosed, rfl⟩ | ⟨hopen, hanswer⟩ := exec_txReq_next h
  · exact .of_report rfl fun hopen => by simp [hclosed] at hopen
  · by_cases hidle : s.txPhase = .idle
    · obtain rfl | ⟨e, rfl⟩ | ⟨-, hissue⟩ := hanswer
      · exact .of_same_trace rfl
      · exact .of_report rfl fun _ => hidle
      · exact txIssue_reportsAtMostOnce (s := s.requesting m) hissue
    · rw [exec_txReq_of_busy m hopen hidle] at h
      cases h
      exact .of_same_trace rfl

end

/-- Settles O56: a report is the end of a send or the answer to a request, and each happens once in an event. -/
theorem eventReportsAtMostOnce : Obligations.EventReportsAtMostOnce := by
  intro i s t hi h
  change ReportsAtMostOnce s t
  cases i with
  | frameC2 | frameC4 | frameC6 | frameVar => exact receiveRow_reportsAtMostOnce h
  | dataByte | rxByte => exact receiveRow_reportsAtMostOnce (rest := []) h
  | txReq => exact exec_txReq_reportsAtMostOnce h
  | txCancel =>
    obtain rfl | ⟨-, rfl⟩ := exec_txCancel_next h
    · exact .of_same_trace rfl
    · exact .of_report rfl fun _ => rfl
  | echoTimeout =>
    obtain rfl | ⟨-, -, hfail⟩ := exec_echoTimeout_next h
    · exact .of_same_trace rfl
    · exact failAttempt_reportsAtMostOnce hfail
  | backoffDone =>
    obtain rfl | ⟨-, -, hissue⟩ := exec_backoffDone_next h
    · exact .of_same_trace rfl
    · exact txIssue_reportsAtMostOnce hissue
  | openBlock =>
    obtain ⟨-, ⟨-, rfl⟩ | rfl⟩ := exec_openBlock_next h
    · exact .of_no_report [.openDone .ok] rfl rfl
    · exact .of_no_report [.openDone .configError] rfl rfl
  | closeBlock =>
    obtain rfl | rfl := exec_closeBlock_next h
    · exact .of_same_trace rfl
    · exact reportsAtMostOnce_shutdown s _
  | transportErr =>
    obtain rfl | rfl := exec_transportErr_next h
    · exact .of_same_trace rfl
    · exact reportsAtMostOnce_shutdown s _
  | reservedEvent => cases h
  | cksGen | cksChk | msgBuild | encodeMsg | frameMsg | decodeLoop | dNoise | dWait | dAccept | dResync | dBadLen
  | txIssue | dispatch | failAttempt => cases hi

/-! ### Why a step stops (R119) -/

section
variable {s : State}

theorem fetch_eq_some {i : Instr} {t : State} (h : fetch s = some (i, t)) :
    ∃ inp l, i = (decodeInput inp).1 ∧ t = s.withInputs l := by
  obtain ⟨⟨before, inp, after⟩, -, hfound⟩ := Option.map_eq_some_iff.1 h
  cases hfound
  exact ⟨inp, _, rfl, rfl⟩

theorem exec_txReq_completes (m : Message) (s : State) : ∃ t, exec (.txReq m) s = .next t := by
  cases hctrl : s.ctrl with
  | closed => exact ⟨_, exec_txReq_of_closed m hctrl⟩
  | opened =>
    by_cases hidle : s.txPhase = .idle
    · cases herror : messageError m with
      | none => exact ⟨_, exec_txReq_of_valid hctrl hidle herror⟩
      | some e => exact ⟨_, exec_txReq_of_error hctrl hidle herror⟩
    · exact ⟨_, exec_txReq_of_busy m hctrl hidle⟩

theorem exec_txCancel_completes (s : State) : ∃ t, exec .txCancel s = .next t := by
  cases hctrl : s.ctrl with
  | closed => exact ⟨s, exec_txCancel_of_stale (.inl hctrl)⟩
  | opened =>
    by_cases hidle : s.txPhase = .idle
    · exact ⟨s, exec_txCancel_of_stale (.inr hidle)⟩
    · exact ⟨_, exec_txCancel_of_busy hctrl hidle⟩

theorem exec_closeBlock_completes (s : State) : ∃ t, exec .closeBlock s = .next t := by
  cases hctrl : s.ctrl with
  | closed => exact ⟨s, exec_closeBlock_of_closed hctrl⟩
  | opened => exact ⟨_, exec_closeBlock_of_opened hctrl⟩

theorem exec_transportErr_completes (s : State) : ∃ t, exec .transportErr s = .next t := by
  cases hctrl : s.ctrl with
  | closed => exact ⟨s, exec_transportErr_of_closed hctrl⟩
  | opened => exact ⟨_, exec_transportErr_of_opened hctrl⟩

section
variable (hinv : Inv s)
include hinv

/-- While an echo is awaited there is a configuration to read `maxAttempts` from. -/
theorem exec_echoTimeout_completes : ∃ t, exec .echoTimeout s = .next t := by
  by_cases hphase : s.txPhase = .waitEcho
  · obtain ⟨hopen, -⟩ := hinv.opened_of_busy (by simp [hphase])
    obtain ⟨c, hcfg, -⟩ := hinv.openConfigured hopen
    rw [exec_echoTimeout_of_waiting hopen hphase]
    exact failAttempt_completes .timeout hcfg
  · exact ⟨s, exec_echoTimeout_of_stale (.inr hphase)⟩

/-- In BACKOFF there is a current frame to write. -/
theorem exec_backoffDone_completes : ∃ t, exec .backoffDone s = .next t := by
  by_cases hphase : s.txPhase = .backoff
  · obtain ⟨hopen, -⟩ := hinv.opened_of_busy (by simp [hphase])
    obtain ⟨-, f, -, hcur, -⟩ := (State.sendOk_backoff hphase).1 hinv.sendOk
    exact ⟨_, exec_backoffDone_of_current hopen hphase hcur⟩
  · exact ⟨s, exec_backoffDone_of_stale (.inr hphase)⟩

/-- What an input decodes to completes, or is a reserved word's row, or is OPEN while open. -/
theorem exec_decodeInput_completes_or_refuses (inp : Input) :
    (∃ t, exec (decodeInput inp).1 s = .next t) ∨
    (∃ w, (decodeInput inp).1 = .reservedEvent w ∧ reservedWord w = true) ∨
    (∃ c, (decodeInput inp).1 = .openBlock c ∧ s.ctrl = .opened) := by
  cases inp with
  | wire first rest =>
    obtain ⟨unit, left, -, -, hexec⟩ := decodeWire_receivesRow first rest
    rw [decodeInput, hexec]
    exact .inl (receiveRow_completes first unit hinv)
  | event w m c =>
    have hrow := eventRow_decodeEvent w m c
    rw [decodeInput]
    generalize decodeEvent w m c = i at hrow ⊢
    cases hrow with
    | rxByte b => exact .inl (receiveRow_completes b [] hinv)
    | txReq => exact .inl (exec_txReq_completes m s)
    | txCancel => exact .inl (exec_txCancel_completes s)
    | echoTimeout => exact .inl (exec_echoTimeout_completes hinv)
    | backoffDone => exact .inl (exec_backoffDone_completes hinv)
    | openBlock =>
      cases hctrl : s.ctrl with
      | closed => exact .inl ⟨_, exec_openBlock_of_closed c hctrl⟩
      | opened => exact .inr (.inr ⟨c, rfl, rfl⟩)
    | closeBlock => exact .inl (exec_closeBlock_completes s)
    | transportErr => exact .inl (exec_transportErr_completes s)
    | reserved _ hreserved => exact .inr (.inl ⟨w, rfl, hreserved⟩)

end

end

/-- Settles O51: the step runs what the input taken decodes to, on a state of the invariant with other coming inputs. -/
theorem stepStopsOnlyAsTheSpecSays : Obligations.StepStopsOnlyAsTheSpecSays := by
  intro s hinv
  cases hfetch : fetch s with
  | none => exact .inl ⟨s, by simp [step, hfetch]⟩
  | some next =>
    obtain ⟨i, t⟩ := next
    obtain ⟨inp, l, rfl, rfl⟩ := fetch_eq_some hfetch
    rw [step_of_fetch hfetch]
    obtain hnext | ⟨w, hw, hreserved⟩ | ⟨c, hc, hopen⟩ := exec_decodeInput_completes_or_refuses (hinv.withInputs l) inp
    · exact .inl hnext
    · rw [hw]
      exact .inr (.inl ⟨w, _, rfl, hreserved, rfl⟩)
    · rw [hc]
      exact .inr (.inr ⟨c, _, rfl, hopen, exec_openBlock_of_opened c hopen⟩)

end Sys2Proof.Machine
end

section
/-! The obligation of 70_reset_and_hazards.md R120: the state at power-on. -/

namespace Sys2Proof.Machine

/-- Settles O48: each of the ten elements R120 names has that value in the reset state by its definition. -/
theorem powerOnState : Obligations.PowerOnState :=
  ⟨rfl, rfl, rfl, rfl, rfl, rfl, rfl, rfl, rfl, rfl⟩

end Sys2Proof.Machine
end
